-- ==== Sys2Proof/Word.lean ====
section
/-! DEFINITION. The words of the block (spec 00_scope R9): unsigned bit vectors, bit 0 the least significant. -/

namespace Sys2Proof

/-- A data byte, a window slot, an operand `imm8`, a response status (R9: `u8`). -/
abbrev Byte := BitVec 8

/-- A 16-bit command word (R9, R60: `u16`). -/
abbrev CmdWord := BitVec 16

/-- A digest or the data word of a response (R9, R66: `u32`). -/
abbrev DataWord := BitVec 32

/-- A slot number of the window and the value of `window_offset` (R24, R41: 6 bits). -/
abbrev Slot := BitVec 6

/-- A stored `chunk_bits` value (R25: 5 bits). -/
abbrev ChunkBits := BitVec 5

end Sys2Proof
end

