-- ==== Sys2Proof/Config.lean ====
section
/-! DEFINITION. The constants of the block: the algorithm's fixed ones (spec 00_scope R7) and the parameters the
source leaves open with the values this hardware takes (R8). None of them is state (10_state R27). -/

namespace Sys2Proof.Config

/-- `WINDOW_SIZE` (R7). -/
abbrev windowSize : Nat := 64

/-- `CHAR_OFFSET` (R7). -/
abbrev charOffset : Nat := 31

/-- `DEFAULT_CHUNK_BITS` (R7). -/
abbrev defaultChunkBits : Nat := 13

/-- `CHUNK_BITS_LIMIT` (R7): the smallest rejected `chunk_bits`. -/
abbrev chunkBitsLimit : Nat := 32

/-- `ACC_WIDTH` (R8, R21; 92 D2; UNVERIFIED, log entry 6). The engine's operations are written for every width; the machine
takes this one. -/
abbrev accWidth : Nat := 32

/-- `S1_INIT` (R8, R22; 92 D3). UNVERIFIED: the spec takes it from general knowledge (93 G1; log entry 7); unsafe. -/
abbrev s1Init : Nat := 1984

/-- `S2_INIT` (R8, R22; 92 D3). UNVERIFIED: the spec takes it from general knowledge (93 G1; log entry 7); unsafe. -/
abbrev s2Init : Nat := 124992

/-- `WOFS_INIT` (R8, R24; 92 D4; UNVERIFIED, log entry 8). -/
abbrev wofsInit : Slot := 0

end Sys2Proof.Config
end

