-- ==== Sys2Proof/Syntax.lean ====
section
/-! DEFINITION. The seven commands of the block (spec 30_encoding R62, R69), one constructor per row of
spec/opcode_table.json. An operand has the width of its field `imm8` (R63), so every term is a command some legal
word encodes. The pseudo-operations ROLLBUF and FINDCHUNK have no word (R73): they are in Machine/HostOps.lean. -/

namespace Sys2Proof

/-- A command of the block. -/
inductive Instr where
  /-- INIT: construct a default engine (R82). -/
  | init
  /-- CONFIG c: construct an engine with `chunk_bits` c (R83); c may be any byte, c of 32 or more faults (R85). -/
  | config (c : Byte)
  /-- RESET: restore the fresh state, keeping `chunk_bits` (R115). -/
  | reset
  /-- ROLL b: roll one byte (R100). -/
  | roll (b : Byte)
  /-- SCAN b: roll one byte and test for a boundary (R132). -/
  | scan (b : Byte)
  /-- DIGEST: read the digest (R110). -/
  | digest
  /-- COUNTBITS: boundary strength (R145). -/
  | countbits
  deriving DecidableEq, Repr

end Sys2Proof
end

