-- ==== Sys2Proof/WellFormed.lean ====
section
/-! DEFINITION. Well-formedness: which 16-bit words are legal commands (spec 30_encoding R64), and which commands
the block accepts without a fault (R63, 40_construction R85). Every term of `Instr` is well formed as syntax, since
its operand has the field's width; `CONFIG 40` is a legal command that faults when executed (R70). -/

namespace Sys2Proof

/-- The word is one of the three rows with an operand byte: its bits 15:8 are the row's (R64, masks `0xFF00`). -/
def CmdWord.hasByteOperand (w : CmdWord) : Bool :=
  w &&& 0xFF00 == 0x2000 || w &&& 0xFF00 == 0x4000 || w &&& 0xFF00 == 0x5000

/-- The word is one of the four rows without an operand: all its bits are the row's (R64, masks `0xFFFF`). -/
def CmdWord.hasNoOperand (w : CmdWord) : Bool :=
  w == 0x1000 || w == 0x3000 || w == 0x6000 || w == 0x7000

/-- R64: "A word is legal exactly when it matches one row of rule R62 under that row's mask". -/
def CmdWord.legal (w : CmdWord) : Bool :=
  CmdWord.hasByteOperand w || CmdWord.hasNoOperand w

/-- The operand of the command is in the range the block accepts: only CONFIG has a check, `c <= 31` (R63, R85). -/
def Instr.accepted : Instr → Bool
  | .init => true
  | .config c => decide (c.toNat < Config.chunkBitsLimit)
  | .reset => true
  | .roll _ => true
  | .scan _ => true
  | .digest => true
  | .countbits => true

end Sys2Proof
end

