-- ==== Sys2Proof/Decode.lean ====
section
/-! DEFINITION. The decoder (spec 30_encoding R69), total on every 16-bit word and rejecting by name, and the encoder
(R71) written from the same table (R61, R62). The block has one format and one length (R60). -/

namespace Sys2Proof

/-- Why a word is no command (R64). The block does not report the reason: each is ILLEGAL_COMMAND (R65). -/
inductive Illegal where
  /-- A nonzero `rsv` field. -/
  | reservedField
  /-- An `op` of 0x0 or 0x8 to 0xF. -/
  | reservedOpcode
  /-- A nonzero `imm8` on INIT, RESET, DIGEST or COUNTBITS. -/
  | operandNotZero
  deriving DecidableEq, Repr

/-- `op = w[15:12]` (R61). -/
def opField (w : CmdWord) : BitVec 4 := w.extractLsb' 12 4

/-- `rsv = w[11:8]` (R61). -/
def rsvField (w : CmdWord) : BitVec 4 := w.extractLsb' 8 4

/-- `imm8 = w[7:0]` (R61, R63). -/
def imm8Field (w : CmdWord) : Byte := w.extractLsb' 0 8

/-- A command that takes no operand: `(imm8 == 0) ? i : ILLEGAL` (R69). -/
def noOperand (w : CmdWord) (i : Instr) : Except Illegal Instr :=
  if imm8Field w = 0 then .ok i else .error .operandNotZero

/-- R69's `decode`. -/
def decode (w : CmdWord) : Except Illegal Instr :=
  if rsvField w = 0 then
    match (opField w).toNat with
    | 1 => noOperand w .init
    | 2 => .ok (.config (imm8Field w))
    | 3 => noOperand w .reset
    | 4 => .ok (.roll (imm8Field w))
    | 5 => .ok (.scan (imm8Field w))
    | 6 => noOperand w .digest
    | 7 => noOperand w .countbits
    | _ => .error .reservedOpcode
  else .error .reservedField

/-- The word of format `C16` with the fields `op`, `rsv = 0`, `imm8` (R61). -/
def c16 (op : BitVec 4) (imm8 : Byte) : CmdWord :=
  op ++ (0 : BitVec 4) ++ imm8

/-- R71's encoding of each command. -/
def encode : Instr → CmdWord
  | .init => c16 1 0
  | .config c => c16 2 c
  | .reset => c16 3 0
  | .roll b => c16 4 b
  | .scan b => c16 5 b
  | .digest => c16 6 0
  | .countbits => c16 7 0

/-- The command word whose bits are the low `nbits` bits of `w`; `none` if that number has a bit above the one
command word (R60: no other length; log entry 20). -/
def tableWord (nbits w : Nat) : Option CmdWord :=
  if w % 2 ^ nbits < 2 ^ 16 then some (BitVec.ofNat 16 (w % 2 ^ nbits)) else none

/-- The command the decoder reads from a row of spec/opcode_table.json with the bits `w`. -/
def decodeTableWord (nbits w : Nat) : Option Instr :=
  match tableWord nbits w with
  | some word => (decode word).toOption
  | none => none

end Sys2Proof
end

