-- ==== Sys2Proof/Machine/State.lean ====
section
/-! DEFINITION. The state of one instance of the block (spec 10_state R20), its command and response port
(30_encoding R66, 70_reset R194), and power-on reset (10_state R34, 70_reset R190). All of it is plain data. -/

namespace Sys2Proof.Machine

/-- The engine part of R20 and R28: everything FRESH(c) sets. `W` is `ACC_WIDTH` (R21); the block has
`W = Config.accWidth`, and the width stays open here because no response depends on it (R31). -/
structure Engine (W : Nat) where
  /-- Accumulator `s1` (R21). -/
  s1 : BitVec W
  /-- Accumulator `s2` (R21). -/
  s2 : BitVec W
  /-- The circular window register file, slots 0 to 63 (R23). -/
  window : Vector Byte 64
  /-- `window_offset`: the slot the next roll evicts and writes (R24). -/
  wofs : Slot
  /-- `chunk_bits`, the field of CFG (R25, R26). -/
  cb : ChunkBits
  deriving DecidableEq, Repr

/-- The values CAUSE takes (R26). Code 3 is never written (93 X4), so the model has no name for it (log entry 10). -/
inductive Cause where
  /-- 0 NONE: no fault. -/
  | none
  /-- 1 ILLEGAL_COMMAND. -/
  | illegalCommand
  /-- 2 CONFIG_ERROR. -/
  | configError
  deriving DecidableEq, Repr

/-- The four values of the STATUS field of a response (R66, R67). -/
inductive Status where
  /-- 0: the command executed. -/
  | ok
  /-- 1: this command raised ILLEGAL_COMMAND now. -/
  | illegalCommand
  /-- 2: this command raised CONFIG_ERROR now. -/
  | configError
  /-- 3: the block was faulted before this command, which was ignored. -/
  | faulted
  deriving DecidableEq, Repr

/-- A response `{status: u8, data: u32}` (R66). The status is kept as the byte the host reads; Machine/Flags.lean
makes it and reads its fields. -/
structure Response where
  status : Byte
  data : DataWord
  deriving DecidableEq, Repr

/-- What the host does at the block's port (R160, R190, R194). -/
inductive HostAction where
  /-- The host presents a command word. -/
  | present (w : CmdWord)
  /-- The host takes the response of the outstanding command. -/
  | take
  /-- Power-on reset is asserted. -/
  | powerOn
  deriving DecidableEq, Repr

/-- Reasons the machine stops for good. There are none: a fault of the block (R161) is a state it goes on from,
answering every later command (R164), and every other operation is total (R86, R162). So no step of the model ends
in a fault (log entry 13). -/
inductive Fault where
  deriving DecidableEq, Repr

/-- Reasons the model has no move. -/
inductive Refusal where
  /-- Raised by no arm of this model: an instruction that has no meaning yet. Safe. -/
  | notModelled (mnemonic : String)
  /-- Raised by `issue`: the host presents a word while a command is outstanding, which is "outside this spec (the
  model has no move for it)" (R194; 93 X8 `refuse`; log entry 2). Safe for a host that keeps the handshake; a host
  that breaks it is out of the model (92 D17). -/
  | commandOutstanding
  deriving DecidableEq, Repr

/-- One instance of the block with its port. -/
structure State where
  /-- `s1`, `s2`, `window`, `wofs`, `cb` (R20). -/
  engine : Engine Config.accWidth
  /-- FAULT (R26). -/
  fault : Bool
  /-- CAUSE (R26). -/
  cause : Cause
  /-- The response the host has not taken yet, if a command is outstanding (R66, R194; log entry 2). -/
  response : Option Response
  /-- What the host will do at the port, first action first (R160; log entry 1). -/
  inputs : List HostAction
  deriving DecidableEq, Repr

/-- The state after power-on reset (R34, R190): `FRESH(13)`, no fault, no response, and a host that has not acted. -/
def State.reset : State where
  engine :=
    { s1 := BitVec.ofNat _ Config.s1Init
      s2 := BitVec.ofNat _ Config.s2Init
      window := Vector.replicate 64 0
      wofs := Config.wofsInit
      cb := BitVec.ofNat _ Config.defaultChunkBits }
  fault := false
  cause := .none
  response := none
  inputs := []

end Sys2Proof.Machine
end

