-- ==== Sys2Proof/Machine/Flags.lean ====
section
/-! DEFINITION. The response status (spec 30_encoding R66, R67), the cause codes (60_exceptions R161), the boundary
predicate (42_boundary R130) and the strength count (R145). The block stores no flags (10_state R27): BOUNDARY is a
bit of one response. -/

namespace Sys2Proof.Machine

/-- The code of CAUSE (R26, R161). -/
def causeCode : Cause → BitVec 2
  | .none => 0
  | .illegalCommand => 1
  | .configError => 2

/-- `zext_32(CAUSE)`: the data of a FAULTED response (R68, R164). -/
def dataOfCause (c : Cause) : DataWord := (causeCode c).setWidth 32

/-- The code of STATUS (R66). -/
def statusCode : Status → BitVec 2
  | .ok => 0
  | .illegalCommand => 1
  | .configError => 2
  | .faulted => 3

/-- `respond(STATUS = cause, …)` of fault entry (R163): the status a cause is reported with. -/
def statusOfCause : Cause → Status
  | .none => .ok
  | .illegalCommand => .illegalCommand
  | .configError => .configError

/-- The status byte: STATUS in bits 1:0, bits 6:2 zero, BOUNDARY in bit 7 (R66). -/
def statusByte (st : Status) (boundary : Bool) : Byte :=
  BitVec.ofBool boundary ++ (0 : BitVec 5) ++ statusCode st

/-- Field STATUS of a response (R66). -/
def statusField (r : Response) : BitVec 2 := r.status.extractLsb' 0 2

/-- The reserved field, bits 6:2, of a response (R66). -/
def reservedField (r : Response) : BitVec 5 := r.status.extractLsb' 2 5

/-- Field BOUNDARY of a response (R66). -/
def boundaryField (r : Response) : Bool := r.status.getLsbD 7

/-- The response's STATUS is OK (R67). -/
def isOk (r : Response) : Bool := statusField r == statusCode .ok

/-- `mask(c) = (1 << c) - 1` at 32 bits (R130). -/
def boundaryMask (c : ChunkBits) : DataWord := (1 <<< c.toNat) - 1

/-- `Boundary(d, c) = (d & mask(c)) == mask(c)` (R130). -/
def boundary (d : DataWord) (c : ChunkBits) : Bool := d &&& boundaryMask c == boundaryMask c

/-- The loop of R145: shift, then test, then count; the shift before the first test is the normative skip (R146).
`fuel` bounds the iterations; R148 bounds them by `32 - c`, so 32 is enough (log entry 12). -/
def countLoop : Nat → DataWord → BitVec 6 → BitVec 6
  | 0, _, bits => bits
  | fuel + 1, rsum, bits =>
    if (rsum >>> 1).getLsbD 0 then countLoop fuel (rsum >>> 1) (bits + 1) else bits

/-- `count_bits_fn(d, c)` (R145). -/
def countBitsFn (d : DataWord) (c : ChunkBits) : BitVec 6 :=
  countLoop 32 (d >>> c.toNat) (c.setWidth 6)

end Sys2Proof.Machine
end

