-- ==== Sys2Proof/Machine/Operands.lean ====
section
/-! DEFINITION. The operands and result words of the commands (spec 30_encoding R63, R68). The only operand form is
the byte `imm8`, zero-extended where a wider value is needed, never sign-extended, scaled or shifted (R63). -/

namespace Sys2Proof.Machine

/-- `zext_32(imm8)`: the data of CONFIG_ERROR (R68). -/
def dataOfByte (b : Byte) : DataWord := b.setWidth 32

/-- `zext_32(w)`: the data of ILLEGAL_COMMAND (R68). -/
def dataOfWord (w : CmdWord) : DataWord := w.setWidth 32

/-- `zext_32(count)`: the data of COUNTBITS, whose count has 6 bits (R68, R148). -/
def dataOfCount (n : BitVec 6) : DataWord := n.setWidth 32

/-- The low 5 bits `c[4:0]` of CONFIG's operand, "what CFG stores" (R63, R83). -/
def cfgField (c : Byte) : ChunkBits := c.extractLsb' 0 5

/-- The range check of CONFIG fails: `c >= CHUNK_BITS_LIMIT` (R83, R85). -/
def outOfRange (c : Byte) : Bool := decide (Config.chunkBitsLimit ≤ c.toNat)

end Sys2Proof.Machine
end

