-- ==== Sys2Proof/Machine/Ops.lean ====
section
/-! DEFINITION. The named operations over the state that the commands share: the window primitives (spec 00_scope
R11), FRESH (10_state R28), the roll (41_rolling_hash R100), the digest (R110), the tested roll of SCAN (42_boundary
R132), responding (30_encoding R66), fault entry and the faulted answer (60_exceptions R163, R164), power-on reset
(70_reset R190). The engine's operations are written for every accumulator width (10_state R31). -/

namespace Sys2Proof.Machine

variable {W : Nat}

/-- `WinRead(k)` (R11). -/
def Engine.winRead (e : Engine W) (k : Slot) : Byte := e.window[k.toNat]

/-- `WinWrite(k, b)`: slot `k` becomes `b`, no other slot changes (R11). -/
def Engine.winWrite (k : Slot) (b : Byte) (e : Engine W) : Engine W :=
  { e with window := e.window.set k.toNat b }

/-- `FRESH(c)` (R28). -/
def Engine.fresh (c : ChunkBits) : Engine W where
  s1 := BitVec.ofNat W Config.s1Init
  s2 := BitVec.ofNat W Config.s2Init
  window := Vector.replicate 64 0
  wofs := Config.wofsInit
  cb := c

/-- `s1 + b - old` modulo `2^W` (R100, R103). -/
def nextS1 (s1 : BitVec W) (b old : Byte) : BitVec W :=
  s1 + b.setWidth W - old.setWidth W

/-- `s2 + s1 - WINDOW_SIZE * (old + CHAR_OFFSET)` modulo `2^W`, `s1` the value just written (R100, R102). -/
def nextS2 (s2 s1 : BitVec W) (old : Byte) : BitVec W :=
  s2 + s1 - BitVec.ofNat W (Config.windowSize * (old.toNat + Config.charOffset))

/-- `roll_byte(b)` (R100): the old byte is always the one in slot `wofs` (R101). -/
def Engine.roll (b : Byte) (e : Engine W) : Engine W :=
  let old := e.winRead e.wofs
  { e.winWrite e.wofs b with
    s1 := nextS1 e.s1 b old
    s2 := nextS2 e.s2 (nextS1 e.s1 b old) old
    wofs := e.wofs + 1 }

/-- `Digest(state) = (zext_32(s1[15:0]) << 16) | zext_32(s2[15:0])` (R110). -/
def Engine.digest (e : Engine W) : DataWord :=
  ((e.s1.extractLsb' 0 16).setWidth 32 <<< 16) ||| (e.s2.extractLsb' 0 16).setWidth 32

/-- The digest SCAN tests: after rolling `b`, before any boundary reset (R133). -/
def Engine.tested (b : Byte) (e : Engine W) : DataWord := (e.roll b).digest

/-- SCAN of `b` finds a boundary (R132). -/
def Engine.hit (b : Byte) (e : Engine W) : Bool := boundary (e.tested b) e.cb

/-- The engine after SCAN of `b`: fresh with the same `cb` on a boundary (R134), rolled otherwise (R132). -/
def Engine.scanned (b : Byte) (e : Engine W) : Engine W :=
  if e.hit b then Engine.fresh e.cb else e.roll b

/-- The strength of the engine's digest (R145, R149). -/
def Engine.strength (e : Engine W) : BitVec 6 := countBitsFn e.digest e.cb

/-- `respond(status, data)` (R11, R66): the command's one response, which the host has yet to take. -/
def State.respond (st : Status) (bdry : Bool) (data : DataWord) (s : State) : State :=
  { s with response := some ⟨statusByte st bdry, data⟩ }

/-- The engine becomes `e`; FAULT, CAUSE and the port stay (R28). -/
def State.withEngine (e : Engine Config.accWidth) (s : State) : State := { s with engine := e }

/-- Fault entry, `raise Fault(cause)` with the data of R161 (R163): the engine is left unchanged. -/
def State.raiseFault (cause : Cause) (data : DataWord) (s : State) : State :=
  State.respond (statusOfCause cause) false data { s with fault := true, cause := cause }

/-- The answer of a faulted block to any word: `{FAULTED, zext_32(CAUSE)}`, no state change (R164). -/
def State.answerFaulted (s : State) : State := s.respond .faulted false (dataOfCause s.cause)

/-- Every command's rule runs only when FAULT = 0; otherwise R164 applies (40_construction's template; log entry 11). -/
def unlessFaulted (s executed : State) : Host.Outcome State Fault Refusal :=
  .next (if s.fault then s.answerFaulted else executed)

/-- Power-on reset (R190): every register as R34 lists, no response; what the host will do next is the host's own and
stays (log entry 4). -/
def State.powerOn (s : State) : State :=
  { State.reset with inputs := s.inputs }

/-- The host takes the response of the outstanding command (R194). With none outstanding it takes nothing (log
entry 5). -/
def State.takeResponse (s : State) : State := { s with response := none }

end Sys2Proof.Machine
end

