-- ==== Sys2Proof/Machine/Boundary.lean ====
section
/-! DEFINITION. The boundary detection commands SCAN and COUNTBITS (spec 42_boundary). -/

namespace Sys2Proof.Machine

/-- SCAN b: roll b, test the digest, reset on a boundary; answer {OK with BOUNDARY, the tested digest} (R132 to R134). -/
def execScan (b : Byte) (s : State) : Host.Outcome State Fault Refusal :=
  unlessFaulted s
    ((s.withEngine (s.engine.scanned b)).respond .ok (s.engine.hit b) (s.engine.tested b))

/-- COUNTBITS: answer {OK, count_bits_fn(digest, cb)}; no state change, and no need to be at a boundary (R145, R149). -/
def execCountbits (s : State) : Host.Outcome State Fault Refusal :=
  unlessFaulted s (s.respond .ok false (dataOfCount s.engine.strength))

end Sys2Proof.Machine
end

