-- ==== Sys2Proof/Machine/Construction.lean ====
section
/-! DEFINITION. The construction commands INIT and CONFIG (spec 40_construction). -/

namespace Sys2Proof.Machine

/-- INIT: the engine becomes FRESH(13); answer {OK, 0} (R82). -/
def execInit (s : State) : Host.Outcome State Fault Refusal :=
  unlessFaulted s
    ((s.withEngine (Engine.fresh (BitVec.ofNat 5 Config.defaultChunkBits))).respond .ok false 0)

/-- CONFIG c: the range check first, CONFIG_ERROR if it fails, else the engine becomes FRESH(c) (R83, R85). -/
def execConfig (c : Byte) (s : State) : Host.Outcome State Fault Refusal :=
  unlessFaulted s
    (if outOfRange c then s.raiseFault .configError (dataOfByte c)
     else (s.withEngine (Engine.fresh (cfgField c))).respond .ok false 0)

end Sys2Proof.Machine
end

