-- ==== Sys2Proof/Machine/RollingHash.lean ====
section
/-! DEFINITION. The rolling-hash commands ROLL, DIGEST and RESET (spec 41_rolling_hash). -/

namespace Sys2Proof.Machine

/-- ROLL b: the engine rolls b; answer {OK, 0}; no boundary test (R100, R104). -/
def execRoll (b : Byte) (s : State) : Host.Outcome State Fault Refusal :=
  unlessFaulted s ((s.withEngine (s.engine.roll b)).respond .ok false 0)

/-- DIGEST: answer {OK, digest}; no state change (R110, R111). -/
def execDigest (s : State) : Host.Outcome State Fault Refusal :=
  unlessFaulted s (s.respond .ok false s.engine.digest)

/-- RESET: the engine becomes FRESH(cb); answer {OK, 0} (R115). -/
def execReset (s : State) : Host.Outcome State Fault Refusal :=
  unlessFaulted s ((s.withEngine (Engine.fresh s.engine.cb)).respond .ok false 0)

end Sys2Proof.Machine
end

