-- ==== Sys2Proof/Machine/Dispatch.lean ====
section
/-! DEFINITION. The meaning of each command, one arm per constructor of `Instr`. -/

namespace Sys2Proof.Machine

def exec (i : Instr) (s : State) : Host.Outcome State Fault Refusal :=
  match i with
  | .init => Sys2Proof.Machine.execInit s
  | .config c => Sys2Proof.Machine.execConfig c s
  | .reset => Sys2Proof.Machine.execReset s
  | .roll b => Sys2Proof.Machine.execRoll b s
  | .scan b => Sys2Proof.Machine.execScan b s
  | .digest => Sys2Proof.Machine.execDigest s
  | .countbits => Sys2Proof.Machine.execCountbits s

end Sys2Proof.Machine
end

