-- ==== Sys2Proof/Machine/Port.lean ====
section
/-! DEFINITION. The block's port: what each action of the host does (spec 60_exceptions R160, R164, R166; 70_reset
R190, R194). `Machine.step` only calls this. -/

namespace Sys2Proof.Machine

/-- One command word at the block, with the priority of R166: already faulted (undecoded, R164), then an illegal word
(R65, R161), then the command itself. -/
def execWord (w : CmdWord) (s : State) : Host.Outcome State Fault Refusal :=
  if s.fault then .next s.answerFaulted
  else
    match decode w with
    | .error _ => .next (s.raiseFault .illegalCommand (dataOfWord w))
    | .ok i => exec i s

/-- The host presents a word. While a command is outstanding the model has no move (R194, 93 X8). -/
def issue (w : CmdWord) (s : State) : Host.Outcome State Fault Refusal :=
  match s.response with
  | some _ => .refused .commandOutstanding
  | none => execWord w s

/-- One action of the host. -/
def perform (a : HostAction) (s : State) : Host.Outcome State Fault Refusal :=
  match a with
  | .present w => issue w s
  | .take => .next s.takeResponse
  | .powerOn => .next s.powerOn

/-- The next action of the host; with none the block holds its state and does nothing (R173, R190; log entry 3). -/
def stepPort (s : State) : Host.Outcome State Fault Refusal :=
  match s.inputs with
  | [] => .next s
  | a :: rest => perform a { s with inputs := rest }

/-- The host's next action is to present `w`, with no command outstanding (log entry 15). -/
def presentNext (w : CmdWord) (s : State) : State :=
  { s with response := none, inputs := .present w :: s.inputs }

/-- `presentNext` of the low `nbits` bits of `w`; the block takes in one 16-bit word (R60, log entry 20). -/
def presentTableWord (nbits w : Nat) (s : State) : State :=
  presentNext (BitVec.ofNat 16 (w % 2 ^ nbits)) s

end Sys2Proof.Machine
end

