-- ==== Sys2Proof/Machine/Step.lean ====
section
/-! DEFINITION. The step function (spec 00_scope R6): one action of the host at the port; presenting a word executes
one command and produces one response. -/

namespace Sys2Proof.Machine

/-- One step of the block. -/
def step (s : State) : Host.Outcome State Fault Refusal := stepPort s

/-- `s` with a command word where the next step takes it in: presented by the host, the previous response taken. -/
def State.withFetchWord (s : State) (nbits w : Nat) : State := presentTableWord nbits w s

end Sys2Proof.Machine
end

