-- ==== Sys2Proof/Machine/HostOps.lean ====
section
/-! DEFINITION. The host's side (spec 30_encoding R73): one whole transaction, and the pseudo-operations ROLLBUF
(41_rolling_hash R106) and FINDCHUNK (42_boundary R135, R136) as folds of it. They act on the block only by command
words. -/

namespace Sys2Proof.Machine

/-- The host presents `w` and takes the response: R6's `step : State -> CmdWord -> State x Response`. There is no
result when the block gives no response, which happens only while a command is outstanding (log entry 17). -/
def transact (w : CmdWord) (s : State) : Option (State × Response) :=
  match issue w s with
  | .next t =>
    match t.response with
    | some r => some (t.takeResponse, r)
    | none => none
  | .fault _ => none
  | .refused _ => none

/-- The responses to a sequence of words, each taken before the next word (R49, R194), and the last state. -/
def transactAll : List CmdWord → State → Option (State × List Response)
  | [], s => some (s, [])
  | w :: ws, s =>
    match transact w s with
    | none => none
    | some (t, r) => (transactAll ws t).map fun p => (p.1, r :: p.2)

/-- How a pseudo-operation ends. -/
inductive HostResult where
  /-- ROLLBUF sent every byte (R106). -/
  | rolled
  /-- FINDCHUNK found its boundary at index `i` (R135). -/
  | boundary (i : Nat)
  /-- FINDCHUNK sent every byte and found none (R135). -/
  | none
  /-- A response with STATUS other than OK ended it (R106, R135). -/
  | faulted (r : Response)
  /-- A single command's response. -/
  | answered (r : Response)
  deriving DecidableEq, Repr

/-- ROLLBUF (R106): ROLL for every byte in order, "stop early only if a response has STATUS != OK". -/
def rollBuf : List Byte → State → Option (State × HostResult)
  | [], s => some (s, .rolled)
  | b :: bs, s =>
    match transact (encode (.roll b)) s with
    | none => none
    | some (t, r) => if isOk r then rollBuf bs t else some (t, .faulted r)

/-- FINDCHUNK from index `i` (R135): SCAN for every byte in order, stopping after the first boundary or fault. -/
def findChunkFrom : Nat → List Byte → State → Option (State × HostResult)
  | _, [], s => some (s, .none)
  | i, b :: bs, s =>
    match transact (encode (.scan b)) s with
    | none => none
    | some (t, r) =>
      if isOk r then
        if boundaryField r then some (t, .boundary i) else findChunkFrom (i + 1) bs t
      else some (t, .faulted r)

/-- FINDCHUNK (R135). -/
def findChunk (buf : List Byte) (s : State) : Option (State × HostResult) := findChunkFrom 0 buf s

/-- The slices the host forms from a boundary index: `buf[0..=i]` and `buf[i+1..]` (R139). -/
def chunkSlices (buf : List Byte) (i : Nat) : List Byte × List Byte := (buf.take (i + 1), buf.drop (i + 1))

/-- What one line of a host program does (R70, R73). -/
inductive HostOp where
  /-- One command word, legal or raw. -/
  | word (w : CmdWord)
  /-- ROLLBUF. -/
  | rollBuf (buf : List Byte)
  /-- FINDCHUNK. -/
  | findChunk (buf : List Byte)
  deriving DecidableEq, Repr

/-- One line of a host program. -/
def runOp (op : HostOp) (s : State) : Option (State × HostResult) :=
  match op with
  | .word w => (transact w s).map fun p => (p.1, .answered p.2)
  | .rollBuf buf => Sys2Proof.Machine.rollBuf buf s
  | .findChunk buf => Sys2Proof.Machine.findChunk buf s

/-- A host program, line after line. -/
def runHost : List HostOp → State → Option (State × List HostResult)
  | [], s => some (s, [])
  | op :: ops, s =>
    match runOp op s with
    | none => none
    | some (t, r) => (runHost ops t).map fun p => (p.1, r :: p.2)

end Sys2Proof.Machine
end

