-- ==== Sys2Proof/Machine/Assembler.lean ====
section
/-! DEFINITION. The assembly text of host programs (spec 30_encoding R70, R71, R73): one command per line. A line is a
list of characters. What R70 and R73 leave open (blanks, and where none is needed; letter case of hexadecimal digits; quoted characters; the
names of the refusals) is the model's choice: log entry 16 (DESIGN CHOICE) names each point. -/

namespace Sys2Proof.Machine

/-- A piece of a line: a run of plain characters, a quoted character, or a comma. -/
inductive Token where
  | plain (cs : List Char)
  | quoted (c : Char)
  | comma
  deriving DecidableEq, Repr

/-- Why a line is refused. The names, and the refusals of lines R70 does not speak of, are log entry 16 (DESIGN CHOICE). -/
inductive AsmError where
  /-- A quote that does not enclose exactly one ASCII character. -/
  | badQuote
  /-- The first word of the line is no mnemonic (upper case only) and not `.word`. -/
  | unknownMnemonic
  /-- An operand on a command that takes none (R70). -/
  | unexpectedOperand
  /-- No operand, or more than one, on a command that takes one; commas that do not separate a list. -/
  | badOperandCount
  /-- An operand that is neither a number nor, where one is allowed, a quoted character. -/
  | badOperand
  /-- A number above 255, or above 65535 for `.word` (R70). -/
  | outOfRange
  deriving DecidableEq, Repr

/-- Blank characters between tokens. -/
def isBlank (c : Char) : Bool := c.toNat == 32 || c.toNat == 9 || c.toNat == 13

/-- Put a finished run of plain characters (kept in reverse) before the tokens that follow. -/
def flushPlain (run : List Char) (ts : List Token) : List Token :=
  if run.isEmpty then ts else .plain run.reverse :: ts

/-- Cut a line into tokens; a `;` outside quotes starts a comment (R70). Codes 39, 44, 59 are quote, comma, `;`.
DESIGN CHOICE (log entry 16): a quote, a comma or a `;` ends a run of plain characters as a blank does, so no blank need
stand between the mnemonic and a quoted operand (`ROLL'A'` is `ROLL 'A'`); R70 does not say. -/
def lexLine : List Char → List Char → Except AsmError (List Token)
  | run, [] => .ok (flushPlain run [])
  | run, c :: rest =>
    if c.toNat = 59 then .ok (flushPlain run [])
    else if c.toNat = 39 then
      match rest with
      | d :: q :: rest' =>
        if q.toNat = 39 ∧ d.toNat < 128 then
          (lexLine [] rest').map fun ts => flushPlain run (.quoted d :: ts)
        else .error .badQuote
      | _ => .error .badQuote
    else if c.toNat = 44 then (lexLine [] rest).map fun ts => flushPlain run (.comma :: ts)
    else if isBlank c then (lexLine [] rest).map fun ts => flushPlain run ts
    else lexLine (c :: run) rest

/-- The value of a digit in base 10 or 16. -/
def digitValue (base : Nat) (c : Char) : Option Nat :=
  let v := if 48 ≤ c.toNat ∧ c.toNat ≤ 57 then c.toNat - 48
    else if 97 ≤ c.toNat ∧ c.toNat ≤ 102 then c.toNat - 87
    else if 65 ≤ c.toNat ∧ c.toNat ≤ 70 then c.toNat - 55
    else 99
  if v < base then some v else none

/-- The value of a run of digits, most significant first. -/
def digitsValue (base : Nat) : Nat → List Char → Option Nat
  | acc, [] => some acc
  | acc, c :: cs =>
    match digitValue base c with
    | some v => digitsValue base (acc * base + v) cs
    | none => none

/-- A number, decimal (`65`) or hexadecimal (`0x41`) (R70). -/
def numberValue (cs : List Char) : Option Nat :=
  match cs with
  | [] => none
  | '0' :: 'x' :: ds => if ds.isEmpty then none else digitsValue 16 0 ds
  | ds => digitsValue 10 0 ds

/-- A number below `limit`. -/
def boundedNumber (limit : Nat) (cs : List Char) : Except AsmError Nat :=
  match numberValue cs with
  | none => .error .badOperand
  | some n => if n < limit then .ok n else .error .outOfRange

/-- The operand of ROLL and SCAN: a number 0..255 or a quoted character, meaning its code (R70). -/
def byteOperand : Token → Except AsmError Byte
  | .plain cs => (boundedNumber 256 cs).map (BitVec.ofNat 8)
  | .quoted c => .ok (BitVec.ofNat 8 c.toNat)
  | .comma => .error .badOperand

/-- The operand of CONFIG: a number 0..255; 32..255 assemble, and fault when executed (R70). -/
def configOperand : Token → Except AsmError Byte
  | .plain cs => (boundedNumber 256 cs).map (BitVec.ofNat 8)
  | .quoted _ => .error .badOperand
  | .comma => .error .badOperand

/-- The operand of `.word`: a number of 16 bits (R70, R71). -/
def wordOperand : Token → Except AsmError CmdWord
  | .plain cs => (boundedNumber 65536 cs).map (BitVec.ofNat 16)
  | .quoted _ => .error .badOperand
  | .comma => .error .badOperand

/-- The byte list of ROLLBUF and FINDCHUNK, separated by commas; it may be empty (R73). -/
def byteList : List Token → Except AsmError (List Byte)
  | [] => .ok []
  | [t] => (byteOperand t).map fun b => [b]
  | t :: .comma :: u :: ts => (byteOperand t).bind fun b => (byteList (u :: ts)).map fun bs => b :: bs
  | _ => .error .badOperandCount

/-- A command that takes no operand (R70). -/
def asmNone (i : Instr) (ts : List Token) : Except AsmError HostOp :=
  match ts with
  | [] => .ok (.word (encode i))
  | _ => .error .unexpectedOperand

/-- A command, or `.word`, with exactly one operand. -/
def asmOne {α : Type} (operand : Token → Except AsmError α) (word : α → CmdWord) (ts : List Token) :
    Except AsmError HostOp :=
  match ts with
  | [t] => (operand t).map fun a => .word (word a)
  | _ => .error .badOperandCount

/-- The line's tokens as a host operation (R70, R71, R73). -/
def asmTokens (mnemonic : List Char) (ts : List Token) : Except AsmError HostOp :=
  if mnemonic = "INIT".toList then asmNone .init ts
  else if mnemonic = "CONFIG".toList then asmOne configOperand (fun c => encode (.config c)) ts
  else if mnemonic = "RESET".toList then asmNone .reset ts
  else if mnemonic = "ROLL".toList then asmOne byteOperand (fun b => encode (.roll b)) ts
  else if mnemonic = "SCAN".toList then asmOne byteOperand (fun b => encode (.scan b)) ts
  else if mnemonic = "DIGEST".toList then asmNone .digest ts
  else if mnemonic = "COUNTBITS".toList then asmNone .countbits ts
  else if mnemonic = ".word".toList then asmOne wordOperand (fun w => w) ts
  else if mnemonic = "ROLLBUF".toList then (byteList ts).map .rollBuf
  else if mnemonic = "FINDCHUNK".toList then (byteList ts).map .findChunk
  else .error .unknownMnemonic

/-- Assemble one line (R70); a blank or comment line is no operation. -/
def assembleLine (line : List Char) : Except AsmError (Option HostOp) :=
  match lexLine [] line with
  | .error e => .error e
  | .ok [] => .ok none
  | .ok (.plain cs :: ts) => (asmTokens cs ts).map some
  | .ok (_ :: _) => .error .unknownMnemonic

/-- Assemble a program, line after line. -/
def assemble : List (List Char) → Except AsmError (List HostOp)
  | [] => .ok []
  | l :: ls => (assembleLine l).bind fun o => (assemble ls).map fun ops => o.toList ++ ops

/-- The upper-case hexadecimal digit of a number below 16. -/
def hexDigit (n : Nat) : Char := if n < 10 then Char.ofNat (48 + n) else Char.ofNat (55 + n)

/-- A byte as a hexadecimal operand, `0x41` (R70). -/
def hexByte (b : Byte) : List Char := ['0', 'x', hexDigit (b.toNat / 16), hexDigit (b.toNat % 16)]

/-- The assembly line of a command (R70, R71). -/
def asmText : Instr → List Char
  | .init => "INIT".toList
  | .config c => "CONFIG ".toList ++ hexByte c
  | .reset => "RESET".toList
  | .roll b => "ROLL ".toList ++ hexByte b
  | .scan b => "SCAN ".toList ++ hexByte b
  | .digest => "DIGEST".toList
  | .countbits => "COUNTBITS".toList

end Sys2Proof.Machine
end

