-- ==== Sys2Proof/Machine/System.lean ====
section
/-! DEFINITION. Several instances of the block (spec 60_exceptions R175, 20_memory R50): a list of whole states, of
which the platform steps one at a time. How hosts reach an instance is the platform's (20_memory R48). -/

namespace Sys2Proof.Machine

/-- Any number of instances, each with the whole state of its own (R175). -/
abbrev System := List State

/-- Instance `k` takes one step; no result when it does not exist or its step has no next state. -/
def stepAt (k : Nat) (sys : System) : Option System :=
  match sys[k]? with
  | none => none
  | some s =>
    match step s with
    | .next t => some (sys.set k t)
    | .fault _ => none
    | .refused _ => none

end Sys2Proof.Machine
end

