-- ==== Sys2Proof/Machine/Window.lean ====
section
/-! DEFINITION. What the spec derives from the window: the logical window (spec 10_state R29) and its two sums (R30). -/

namespace Sys2Proof.Machine

variable {W : Nat}

/-- `L[j] = WinRead((wofs + j) mod 64)`: `L[0]` the oldest byte, `L[63]` the newest (R29). -/
def Engine.logicalAt (e : Engine W) (j : Nat) : Byte := e.winRead (e.wofs + BitVec.ofNat 6 j)

/-- The logical window, oldest byte first (R29). -/
def Engine.logical (e : Engine W) : List Byte := (List.range 64).map e.logicalAt

/-- `sum L[j]` over a list of bytes, as an exact number (R30). -/
def byteSum : List Byte → Nat
  | [] => 0
  | b :: bs => b.toNat + byteSum bs

/-- `sum (n - j) * L[j]`, `n` the length of the list: the first byte weighs `n`, the last 1, as an exact number (R30).
For the 64 bytes of a logical window the weights are `64 - j`. -/
def weightedSum : List Byte → Nat
  | [] => 0
  | b :: bs => (bs.length + 1) * b.toNat + weightedSum bs

/-- Every slot of the window holds 0 (R141's "all-zero logical window"). -/
def Engine.windowZero (e : Engine W) : Bool := e.window == Vector.replicate 64 0

/-- Rolling the bytes of a list in order, at the engine (R106: the fold of ROLL). -/
def Engine.rollAll (bs : List Byte) (e : Engine W) : Engine W := bs.foldl (fun e b => e.roll b) e

end Sys2Proof.Machine
end

