-- ==== Sys2Proof/Safety.lean ====
section
/-! DEFINITION. What counts as a safe run, and the predicates statements are made of. -/

namespace Sys2Proof.Safety

open Sys2Proof.Machine

/-- "a claim about a run takes FAULT = 0 at the end as a premise" (spec 60_exceptions R165): the block has not faulted. -/
def Healthy (s : State) : Prop := s.fault = false

/-- FAULT and CAUSE agree: there is a cause exactly when there is a fault (10_state R26, 60_exceptions R161). -/
def FaultConsistent (s : State) : Prop := s.fault = true ↔ s.cause ≠ .none

/-- The response's status byte is one R66 allows: reserved bits zero, BOUNDARY only with STATUS OK. -/
def ResponseWellFormed (r : Response) : Prop :=
  reservedField r = 0 ∧ (boundaryField r = true → isOk r = true)

/-- The response the host has yet to take, if any, is well formed. -/
def PendingWellFormed (s : State) : Prop :=
  ∀ r, s.response = some r → ResponseWellFormed r

/-- R30's closed form of the accumulators over the logical window (of R29). -/
def ClosedForm {W : Nat} (e : Engine W) : Prop :=
  e.s1 = BitVec.ofNat W (Config.s1Init + byteSum e.logical) ∧
  e.s2 = BitVec.ofNat W (Config.s2Init + weightedSum e.logical)

/-- The invariant every step keeps (R26, R66, R30). -/
structure Inv (s : State) : Prop where
  faultConsistent : FaultConsistent s
  pending : PendingWellFormed s
  closedForm : ClosedForm s.engine

/-- Two engines, perhaps of different accumulator widths, that R31 calls the same: equal but for the accumulator bits
from 16 up. -/
structure AgreeLow {W V : Nat} (e : Engine W) (f : Engine V) : Prop where
  s1 : e.s1.extractLsb' 0 16 = f.s1.extractLsb' 0 16
  s2 : e.s2.extractLsb' 0 16 = f.s2.extractLsb' 0 16
  window : e.window = f.window
  wofs : e.wofs = f.wofs
  cb : e.cb = f.cb

/-- Two states the host cannot tell apart by R32: equal logical window, `cb`, FAULT and CAUSE, and no command
outstanding in either. -/
structure SameView (s t : State) : Prop where
  logical : s.engine.logical = t.engine.logical
  cb : s.engine.cb = t.engine.cb
  fault : s.fault = t.fault
  cause : s.cause = t.cause
  idleLeft : s.response = none
  idleRight : t.response = none

/-- Two states no host can tell apart by R32, in the middle of a run: equal logical window, `cb`, FAULT and CAUSE, both
engines in closed form, and the same port (the same untaken response, the same host actions to come; log entries 1
and 2). `wofs` and the slots may differ. -/
structure Indistinguishable (s t : State) : Prop where
  logical : s.engine.logical = t.engine.logical
  cb : s.engine.cb = t.engine.cb
  fault : s.fault = t.fault
  cause : s.cause = t.cause
  response : s.response = t.response
  inputs : s.inputs = t.inputs
  closedLeft : ClosedForm s.engine
  closedRight : ClosedForm t.engine

/-- R30's closed form for initial accumulators `S1` and `S2` over an all-zero window, after `n` rolls, modulo `2^W`. -/
def OffsetForm {W : Nat} (S1 S2 : BitVec W) (n : Nat) (e : Engine W) : Prop :=
  e.s1 = S1 + BitVec.ofNat W (byteSum e.logical) ∧
  e.s2 = S2 + BitVec.ofNat W (weightedSum e.logical) + BitVec.ofNat W n * (S1 - BitVec.ofNat W 1984)

/-- The responses to a word sequence, if every word was answered (R32: "the host observes only responses"). -/
def responses (ws : List CmdWord) (s : State) : Option (List Response) := (transactAll ws s).map fun p => p.2

/-- The number of consecutive 1 bits of `d` from bit `k` up, looking at no more than `fuel` bits (R145's `r`). -/
def onesFrom (d : DataWord) : Nat → Nat → Nat
  | _, 0 => 0
  | k, fuel + 1 => if d.getLsbD k then onesFrom d (k + 1) fuel + 1 else 0

end Sys2Proof.Safety
end

