-- ==== Sys2Proof/Certificates/Slice0/Obligations.lean ====
section
/-! DEFINITION. The statements for the provers. Each docstring names the rules of the spec it rests on. The values
1984 and 124992 are the spec's (R22, R34), which marks them as general knowledge (93 G1, log entry 7). What a
response's status byte says: `0x00` OK, `0x80` OK with BOUNDARY, `0x01` ILLEGAL_COMMAND, `0x02` CONFIG_ERROR, `0x03`
FAULTED (30_encoding R66). -/

open Sys2Proof Sys2Proof.Machine Sys2Proof.Safety

/-! ## Encoding and the decoder -/

/-- R69, R71: decode and encode agree in both directions, on every command with every operand and on every word. -/
def Obligations.DecodeEncodeAgree : Prop :=
  ∀ (i : Instr) (w : CmdWord), encode i = w ↔ decode w = .ok i

/-- R64: which words are legal, why the others are not, and how many are legal. -/
def Obligations.LegalWordsAreTheTableRows : Prop :=
  (∀ w : CmdWord,
    ((∃ i, decode w = .ok i) ↔
      (w &&& 0xFF00 = 0x2000 ∨ w &&& 0xFF00 = 0x4000 ∨ w &&& 0xFF00 = 0x5000 ∨
        w = 0x1000 ∨ w = 0x3000 ∨ w = 0x6000 ∨ w = 0x7000)) ∧
    ((∃ e, decode w = .error e) ↔
      (opField w = 0 ∨ 8 ≤ (opField w).toNat ∨ rsvField w ≠ 0 ∨
        (imm8Field w ≠ 0 ∧ (opField w = 1 ∨ opField w = 3 ∨ opField w = 6 ∨ opField w = 7)))) ∧
    (CmdWord.legal w = true ↔ ∃ i, decode w = .ok i)) ∧
  (Finset.univ.filter fun w : CmdWord => CmdWord.legal w = true).card = 772 ∧
  (Finset.univ.filter fun w : CmdWord => CmdWord.legal w = false).card = 64764

/-- R62: a word of each row, written out from the table, decodes to the row's command; some illegal words do not
(R69). The three names the last clauses give, `reservedOpcode`, `reservedField` and `operandNotZero`, are the model's
choice (log entry 14, DESIGN CHOICE): R69 says only that such a word is an ILLEGAL_COMMAND. -/
def Obligations.DecodesWordsOfEachRow : Prop :=
  decode 0x1000 = .ok .init ∧ decode 0x2028 = .ok (.config 40) ∧ decode 0x3000 = .ok .reset ∧
  decode 0x4041 = .ok (.roll 0x41) ∧ decode 0x50FF = .ok (.scan 0xFF) ∧ decode 0x6000 = .ok .digest ∧
  decode 0x7000 = .ok .countbits ∧ decode 0x0000 = .error .reservedOpcode ∧
  decode 0x2104 = .error .reservedField ∧ decode 0x7080 = .error .operandNotZero

/-! ## The port and the step -/

/-- R6, R69: when the host presents a word that decodes to a command and no command is outstanding, the step is `exec`
of that command. That the next host action leaves the list of actions first is the model's form of the host (log
entry 1, DESIGN CHOICE). The second clause, that the step after `withFetchWord` runs the word with an untaken response
taken first, is the model's choice too (log entry 15, DESIGN CHOICE): no rule of the spec speaks of placing a word. -/
def Obligations.StepRunsDecodedCommand : Prop :=
  ∀ (s : State) (w : CmdWord) (i : Instr), decode w = .ok i →
    (∀ rest, s.inputs = .present w :: rest → s.response = none → step s = exec i { s with inputs := rest }) ∧
    step (s.withFetchWord 16 w.toNat) = exec i { s with response := none }

/-- A step performs the host's next action. R160: presenting a word is `issue` of it. R194: the host takes the response
of the outstanding command, and nothing else changes. Three parts are the model's own: the list of actions (log entry 1,
DESIGN CHOICE); that with no action left a step leaves the block as it is (log entry 3, DEDUCED from R173); and that
taking a response when none is outstanding has no effect (log entry 5, DESIGN CHOICE), which the take clause covers
because it holds for every state. -/
def Obligations.StepPerformsNextHostAction : Prop :=
  ∀ s : State,
    (s.inputs = [] → step s = .next s) ∧
    (∀ rest, s.inputs = .take :: rest → step s = .next { s with inputs := rest, response := none }) ∧
    (∀ w rest, s.inputs = .present w :: rest → step s = issue w { s with inputs := rest })

/-- The model's own form of R6's step, which takes one command word and gives one response: here a transaction of the
host, which ROLLBUF and FINDCHUNK are folds of, is two steps of the machine, the word presented and the response taken
(log entry 17, DEDUCED; the list of host actions is log entry 1, DESIGN CHOICE). No rule of the spec cuts R6's step in
two. -/
def Obligations.TransactionIsPresentThenTake : Prop :=
  ∀ (s t : State) (w : CmdWord) (r : Response) (rest : List HostAction),
    transact w { s with inputs := .take :: rest } = some (t, r) →
      Host.Core.run core 2 { s with inputs := .present w :: .take :: rest } = .next { t with inputs := rest } ∧
      ∃ u, Host.Core.run core 1 { s with inputs := .present w :: .take :: rest } = .next u ∧ u.response = some r

/-- R66: every word, legal or not, gets exactly one response; its reserved bits are 0, and its BOUNDARY bit is 1 only
for a SCAN, with STATUS OK, whose tested digest meets the predicate. -/
def Obligations.EveryWordGetsOneResponse : Prop :=
  ∀ (s : State) (w : CmdWord), s.response = none →
    ∃ t r, issue w s = .next t ∧ t.response = some r ∧ t.inputs = s.inputs ∧
      reservedField r = 0 ∧
      (boundaryField r = true ↔
        statusField r = 0 ∧ ∃ b, decode w = .ok (.scan b) ∧ boundary (s.engine.tested b) s.engine.cb = true)

/-- R67, R166, R86: what each STATUS means, with the priority of the conditions; a block that is not faulted answers
OK to every legal word but a CONFIG of 32 or more. -/
def Obligations.StatusSaysWhatHappened : Prop :=
  ∀ (s : State) (w : CmdWord), s.response = none →
    ∃ t r, issue w s = .next t ∧ t.response = some r ∧
      (statusField r = 3 ↔ s.fault = true) ∧
      (statusField r = 1 ↔ s.fault = false ∧ ¬ ∃ i, decode w = .ok i) ∧
      (statusField r = 2 ↔ s.fault = false ∧ ∃ c, decode w = .ok (.config c) ∧ 32 ≤ c.toNat) ∧
      (statusField r = 0 ↔
        s.fault = false ∧ ∃ i, decode w = .ok i ∧ ∀ c, i = .config c → c.toNat ≤ 31)

/-- R194 and 93 X8 (`refuse`): the model has no move exactly when the host presents a word while a command is
outstanding. That an untaken response is what "outstanding" means is the model's reading (log entry 2). -/
def Obligations.RefusesOnlyBrokenHandshake : Prop :=
  ∀ (s : State) (x : Refusal), step s = .refused x ↔
    x = .commandOutstanding ∧ ∃ w rest r, s.inputs = .present w :: rest ∧ s.response = some r

/-- R190: power-on reset, whatever the state, sets every register as R34 lists, clears a fault and produces no response
of its own; after it the block waits. Two parts are the model's choice (log entry 4, DESIGN CHOICE for both): a response
the host has not yet taken is dropped (`t.response = none` from every state), and the host's later actions stay. That a
step with no action left changes nothing is log entry 3 (DEDUCED). -/
def Obligations.PowerOnRestoresEveryRegister : Prop :=
  ∀ (s : State) (rest : List HostAction), s.inputs = .powerOn :: rest →
    ∃ t, step s = .next t ∧ t.engine.s1 = 1984 ∧ t.engine.s2 = 124992 ∧ (∀ k, t.engine.winRead k = 0) ∧
      t.engine.wofs = 0 ∧ t.engine.cb = 13 ∧ t.fault = false ∧ t.cause = .none ∧ t.response = none ∧
      t.inputs = rest ∧ (rest = [] → step t = .next t)

/-- R34: the state after reset, every piece of it. -/
def Obligations.ResetStateIsFreshDefault : Prop :=
  State.reset.engine.s1 = 1984 ∧ State.reset.engine.s2 = 124992 ∧ (∀ k, State.reset.engine.winRead k = 0) ∧
  State.reset.engine.wofs = 0 ∧ State.reset.engine.cb = 13 ∧ State.reset.fault = false ∧
  State.reset.cause = .none ∧ State.reset.engine = Engine.fresh 13

/-! ## Faults -/

/-- R65, R163: a word that encodes no command raises ILLEGAL_COMMAND: only FAULT and CAUSE change and the response
holds the word; the all-zero word is such a word. -/
def Obligations.IllegalWordFaults : Prop :=
  (∀ (s : State) (w : CmdWord), s.fault = false → s.response = none → (¬ ∃ i, decode w = .ok i) →
    issue w s = .next { s with fault := true, cause := .illegalCommand, response := some ⟨0x01, w.setWidth 32⟩ }) ∧
  ¬ ∃ i, decode 0x0000 = .ok i

/-- R164: a faulted block answers every word, legal or not, with FAULTED and the first cause, and changes nothing; of
all the host's actions only power-on reset clears FAULT and CAUSE. -/
def Obligations.FaultIsStickyUntilPowerOn : Prop :=
  (∀ (s : State) (w : CmdWord), s.fault = true → s.response = none →
    issue w s = .next { s with response := some ⟨0x03, (causeCode s.cause).setWidth 32⟩ }) ∧
  ∀ s t : State, s.fault = true → step s = .next t →
    (∃ rest, s.inputs = .powerOn :: rest ∧ t.fault = false ∧ t.cause = .none) ∨
    (t.fault = true ∧ t.cause = s.cause ∧ t.engine = s.engine)

/-- The model's choice of log entry 11: the meaning of a command at a faulted state is R164's answer too. -/
def Obligations.MeaningsRespectTheFault : Prop :=
  ∀ (s : State) (i : Instr), s.fault = true →
    exec i s = .next { s with response := some ⟨0x03, (causeCode s.cause).setWidth 32⟩ }

/-- R26, R161, R163: FAULT and CAUSE change only at power-on and at a fault entry, which leaves the engine unchanged
and has one of the two causes. -/
def Obligations.FaultChangesOnlyByEntryOrPowerOn : Prop :=
  ∀ s t : State, step s = .next t → (t.fault ≠ s.fault ∨ t.cause ≠ s.cause) →
    (∃ rest, s.inputs = .powerOn :: rest) ∨
    (s.fault = false ∧ t.fault = true ∧ t.engine = s.engine ∧ ∃ w rest, s.inputs = .present w :: rest ∧
      ((t.cause = .illegalCommand ∧ ¬ ∃ i, decode w = .ok i) ∨
        (t.cause = .configError ∧ ∃ c, decode w = .ok (.config c) ∧ 32 ≤ c.toNat)))

/-! ## The commands: completion, result and frame (every field of the state not named is unchanged) -/

/-- R82: INIT, the word 0x1000, completes and constructs a default engine. -/
def Obligations.InitConstructsDefaultEngine : Prop :=
  encode .init = 0x1000 ∧ ∀ s : State, s.fault = false →
    exec .init s = .next { s with
      engine := { s1 := 1984, s2 := 124992, window := Vector.replicate 64 0, wofs := 0, cb := 13 }
      response := some ⟨0x00, 0⟩ }

/-- R83, R85: CONFIG c, the word 0x2000 | c, completes and constructs an engine with `chunk_bits` c when c <= 31; otherwise it raises
CONFIG_ERROR before any engine state changes. -/
def Obligations.ConfigConstructsOrFaults : Prop :=
  ∀ (s : State) (c : Byte), s.fault = false →
    encode (.config c) = 0x2000 ||| c.setWidth 16 ∧
    (c.toNat ≤ 31 → ∃ cb : ChunkBits, cb.toNat = c.toNat ∧
      exec (.config c) s = .next { s with
        engine := { s1 := 1984, s2 := 124992, window := Vector.replicate 64 0, wofs := 0, cb := cb }
        response := some ⟨0x00, 0⟩ }) ∧
    (32 ≤ c.toNat →
      exec (.config c) s = .next { s with
        fault := true, cause := .configError, response := some ⟨0x02, c.setWidth 32⟩ })

/-- R115: RESET, the word 0x3000, completes and restores the fresh state, keeping `chunk_bits`. -/
def Obligations.ResetRestoresFreshKeepingChunkBits : Prop :=
  encode .reset = 0x3000 ∧ ∀ s : State, s.fault = false →
    exec .reset s = .next { s with
      engine := { s1 := 1984, s2 := 124992, window := Vector.replicate 64 0, wofs := 0, cb := s.engine.cb }
      response := some ⟨0x00, 0⟩ }

/-- R100 to R104: ROLL b, the word 0x4000 | b, completes; the sums are exact integers reduced modulo 2^32, `s2` uses the new `s1`, the old
byte is the one in slot `wofs`, exactly that slot changes, and `cb` stays. The response has BOUNDARY = 0. -/
def Obligations.RollUpdatesAccumulatorsAndWindow : Prop :=
  ∀ (s : State) (b : Byte), s.fault = false →
    encode (.roll b) = 0x4000 ||| b.setWidth 16 ∧
    ∃ e : Engine 32, exec (.roll b) s = .next { s with engine := e, response := some ⟨0x00, 0⟩ } ∧
      (e.s1.toNat : Int) =
        ((s.engine.s1.toNat : Int) + b.toNat - (s.engine.winRead s.engine.wofs).toNat) % 2 ^ 32 ∧
      (e.s2.toNat : Int) =
        ((s.engine.s2.toNat : Int) + e.s1.toNat - 64 * ((s.engine.winRead s.engine.wofs).toNat + 31)) % 2 ^ 32 ∧
      (∀ k, e.winRead k = if k = s.engine.wofs then b else s.engine.winRead k) ∧
      e.wofs.toNat = (s.engine.wofs.toNat + 1) % 64 ∧ e.cb = s.engine.cb

/-- R110: DIGEST, the word 0x6000, completes and answers `s1`'s low 16 bits above `s2`'s low 16 bits; nothing else changes (R111). -/
def Obligations.DigestReadsLowHalves : Prop :=
  encode .digest = 0x6000 ∧ ∀ s : State, s.fault = false →
    ∃ d : DataWord, exec .digest s = .next { s with response := some ⟨0x00, d⟩ } ∧
      d.toNat = s.engine.s1.toNat % 65536 * 65536 + s.engine.s2.toNat % 65536

/-- R132 to R134: SCAN b, the word 0x5000 | b, completes; with `e` the engine ROLL b leaves, it answers `e`'s digest, with BOUNDARY and the
fresh state (same `chunk_bits`) when the low `cb` bits of that digest are all 1, else without BOUNDARY and with `e`. -/
def Obligations.ScanRollsTestsAndResets : Prop :=
  ∀ (s : State) (b : Byte), s.fault = false →
    encode (.scan b) = 0x5000 ||| b.setWidth 16 ∧
    ∃ (e : Engine 32) (d : DataWord), exec (.roll b) s = .next { s with engine := e, response := some ⟨0x00, 0⟩ } ∧
      exec .digest { s with engine := e } = .next { s with engine := e, response := some ⟨0x00, d⟩ } ∧
      ((∀ i < s.engine.cb.toNat, d.getLsbD i = true) →
        exec (.scan b) s = .next { s with
          engine := { s1 := 1984, s2 := 124992, window := Vector.replicate 64 0, wofs := 0, cb := s.engine.cb }
          response := some ⟨0x80, d⟩ }) ∧
      ((¬ ∀ i < s.engine.cb.toNat, d.getLsbD i = true) →
        exec (.scan b) s = .next { s with engine := e, response := some ⟨0x00, d⟩ })

/-- R145, R149: COUNTBITS, the word 0x7000, completes at every digest and answers c plus the number of consecutive 1 bits of the digest
from bit c + 1 up; nothing else changes. -/
def Obligations.CountbitsReportsRunAboveSkippedBit : Prop :=
  encode .countbits = 0x7000 ∧ ∀ s : State, s.fault = false →
    ∃ n : DataWord, exec .countbits s = .next { s with response := some ⟨0x00, n⟩ } ∧
      n.toNat = s.engine.cb.toNat +
        onesFrom s.engine.digest (s.engine.cb.toNat + 1) (31 - s.engine.cb.toNat)

/-- R33, R35: what no command changes: the host's later actions always; FAULT and CAUSE but for a CONFIG of 32 or
more; `cb` but for INIT and CONFIG; the engine for DIGEST and COUNTBITS; the other window slots for ROLL, and for a
SCAN that finds no boundary. -/
def Obligations.CommandsFrame : Prop :=
  ∀ (s t : State) (i : Instr), exec i s = .next t →
    t.inputs = s.inputs ∧
    ((∀ c, i = .config c → c.toNat ≤ 31) → t.fault = s.fault ∧ t.cause = s.cause) ∧
    ((i ≠ .init ∧ ∀ c, i ≠ .config c) → t.engine.cb = s.engine.cb) ∧
    ((i = .digest ∨ i = .countbits) → t.engine = s.engine) ∧
    (∀ b k, (i = .roll b ∨ (i = .scan b ∧ s.engine.hit b = false)) → k ≠ s.engine.wofs →
      t.engine.winRead k = s.engine.winRead k)

/-- R25: `cb` is written only by INIT, by CONFIG and at power-on. -/
def Obligations.ChunkBitsWrittenOnlyByConstruction : Prop :=
  ∀ s t : State, step s = .next t → t.engine.cb ≠ s.engine.cb →
    (∃ rest, s.inputs = .powerOn :: rest) ∨
    ∃ w rest, s.inputs = .present w :: rest ∧ (decode w = .ok .init ∨ ∃ c, decode w = .ok (.config c))

/-! ## The boundary predicate and the strength count -/

/-- R130: the predicate holds exactly when the low c bits are all 1; the masks of every c, of 0 and of 31; what SCAN b
reports is the predicate on the digest after `b` has been rolled. -/
def Obligations.BoundaryMeansLowBitsAllOne : Prop :=
  (∀ (d : DataWord) (c : ChunkBits), boundary d c = true ↔ ∀ i < c.toNat, d.getLsbD i = true) ∧
  (∀ c : ChunkBits, (boundaryMask c).toNat = 2 ^ c.toNat - 1) ∧ boundaryMask 0 = 0 ∧ boundaryMask 31 = 0x7FFFFFFF ∧
  ∀ (s : State) (b : Byte), s.fault = false →
    ∃ t r, exec (.scan b) s = .next t ∧ t.response = some r ∧ r.data = (s.engine.roll b).digest ∧
      boundaryField r = boundary (s.engine.roll b).digest s.engine.cb

/-- R131: up to 16 the predicate reads only low bits of `s2`; above, all 16 of them and low bits of `s1`. -/
def Obligations.BoundaryReadsAccumulatorBits : Prop :=
  ∀ (e : Engine 32) (c : ChunkBits),
    (c.toNat ≤ 16 → (boundary e.digest c = true ↔ ∀ i < c.toNat, e.s2.getLsbD i = true)) ∧
    (16 < c.toNat →
      (boundary e.digest c = true ↔
        (∀ i < 16, e.s2.getLsbD i = true) ∧ ∀ i < c.toNat - 16, e.s1.getLsbD i = true))

/-- R146: the first test is of bit c + 1: clear, the count is c; set, it is c + 1 or more. Bit c is never tested: the
count depends only on the bits from c + 1 up. -/
def Obligations.CountSkipsBitAboveBoundary : Prop :=
  (∀ (d : DataWord) (c : ChunkBits),
    (d.getLsbD (c.toNat + 1) = false → (countBitsFn d c).toNat = c.toNat) ∧
    (d.getLsbD (c.toNat + 1) = true → c.toNat + 1 ≤ (countBitsFn d c).toNat)) ∧
  ∀ (d d' : DataWord) (c : ChunkBits), (∀ i, c.toNat < i → d.getLsbD i = d'.getLsbD i) →
    countBitsFn d c = countBitsFn d' c

/-- R147: with the low c bits 1, exactly k >= 1 more bits 1 and the next 0, the count is c + k - 1; with bits c and
c + 1 both 0 it is c. -/
def Obligations.CountFormulaAtBoundary : Prop :=
  ∀ (d : DataWord) (c : ChunkBits) (k : Nat), c.toNat + k ≤ 32 →
    (∀ i < c.toNat + k, d.getLsbD i = true) → d.getLsbD (c.toNat + k) = false →
    (1 ≤ k → (countBitsFn d c).toNat = c.toNat + k - 1) ∧
    (k = 0 → d.getLsbD (c.toNat + 1) = false → (countBitsFn d c).toNat = c.toNat)

/-- R148: the loop has stopped after 32 - c iterations, so more fuel changes nothing; the count is from c to 31, and
at most max(30, c) where the accumulators have their closed form. -/
def Obligations.CountTerminatesInRange : Prop :=
  (∀ (d : DataWord) (c : ChunkBits),
    (∀ n, 32 - c.toNat ≤ n → countLoop n (d >>> c.toNat) (c.setWidth 6) = countBitsFn d c) ∧
    c.toNat ≤ (countBitsFn d c).toNat ∧ (countBitsFn d c).toNat ≤ 31) ∧
  ∀ e : Engine 32, ClosedForm e → e.strength.toNat ≤ max 30 e.cb.toNat

/-- R143: with `chunk_bits` 0 every SCAN reports a boundary and resets, and FINDCHUNK of a nonempty buffer ends at
index 0. -/
def Obligations.ZeroChunkBitsEveryByteIsBoundary : Prop :=
  ∀ (s : State) (b : Byte) (buf : List Byte), s.fault = false → s.engine.cb = 0 →
    exec (.scan b) s = .next { s with
      engine := Engine.fresh 0, response := some ⟨0x80, (s.engine.roll b).digest⟩ } ∧
    (s.response = none →
      findChunk (b :: buf) s = some ({ s with engine := Engine.fresh 0 }, .boundary 0))

/-- R144: with `chunk_bits` 31 and the accumulators in closed form no SCAN ever reports a boundary, and FINDCHUNK
always rolls its whole buffer and answers NONE. -/
def Obligations.ThirtyOneChunkBitsNeverBoundary : Prop :=
  ∀ (s : State) (buf : List Byte), s.fault = false → s.response = none → ClosedForm s.engine → s.engine.cb = 31 →
    (∀ b, exec (.scan b) s = .next { s with
      engine := s.engine.roll b, response := some ⟨0x00, (s.engine.roll b).digest⟩ }) ∧
    findChunk buf s = some ({ s with engine := s.engine.rollAll buf }, .none)

/-! ## Invariants and closed forms -/

/-- The invariant holds at reset. -/
def Obligations.ResetMeetsInvariant : Prop := Inv State.reset

/-- R30 (closed form of the accumulators), R26 (FAULT and CAUSE agree) and R66 (the pending response is well formed):
every step, from every state that meets them, keeps them. -/
def Obligations.StepKeepsInvariant : Prop :=
  ∀ s t : State, Inv s → step s = .next t → Inv t

/-- R30, R112: in closed form the accumulators stay in their ranges, and the digest is the packed closed form, with
bit 31 zero and bits 30:16 never all 1. -/
def Obligations.DigestClosedFormAndRanges : Prop :=
  ∀ e : Engine 32, ClosedForm e →
    (1984 ≤ e.s1.toNat ∧ e.s1.toNat ≤ 18304) ∧ (124992 ≤ e.s2.toNat ∧ e.s2.toNat ≤ 655392) ∧
    e.digest.toNat = (1984 + byteSum e.logical) * 65536 + (124992 + weightedSum e.logical) % 65536 ∧
    e.digest.getLsbD 31 = false ∧ e.digest.extractLsb' 16 15 ≠ 0x7FFF

/-- R103 (last part): in closed form a roll's reduced results are the exact results, so no stored value wraps. -/
def Obligations.RollNeverWrapsInClosedForm : Prop :=
  ∀ (e : Engine 32) (b : Byte), ClosedForm e →
    ((e.roll b).s1.toNat : Int) = (e.s1.toNat : Int) + b.toNat - (e.winRead e.wofs).toNat ∧
    ((e.roll b).s2.toNat : Int) =
      (e.s2.toNat : Int) + (e.roll b).s1.toNat - 64 * ((e.winRead e.wofs).toNat + 31)

/-- R29: rolling bytes shifts them into the logical window; from a fresh engine it is the last 64 of 64 zeros and the
bytes rolled. -/
def Obligations.LogicalWindowIsLastBytes : Prop :=
  (∀ (e : Engine 32) (bs : List Byte), (e.rollAll bs).logical = (e.logical ++ bs).drop bs.length) ∧
  ∀ (c : ChunkBits) (bs : List Byte),
    ((Engine.fresh c : Engine 32).rollAll bs).logical = (List.replicate 64 (0 : Byte) ++ bs).drop bs.length

/-- R30, its general form: for every accumulator width and any initial accumulators over an all-zero window, after n
rolls `s1 = S1 + sum L[j]` and `s2 = S2 + sum (64 - j) L[j] + n (S1 - 1984)` modulo 2^W. -/
def Obligations.ClosedFormForAnyInitialValues : Prop :=
  ∀ (W : Nat) (e : Engine W) (bs : List Byte), e.windowZero = true →
    (e.rollAll bs).s1 = e.s1 + BitVec.ofNat W (byteSum (e.rollAll bs).logical) ∧
    (e.rollAll bs).s2 = e.s2 + BitVec.ofNat W (weightedSum (e.rollAll bs).logical) +
      BitVec.ofNat W bs.length * (e.s1 - BitVec.ofNat W 1984)

/-- R31: engines of any two widths of 16 or more that differ only in accumulator bits from 16 up give the same digest,
strength and SCAN answer, and still differ only so after a roll, a scan and a fresh start. -/
def Obligations.WidthDoesNotShow : Prop :=
  ∀ W V : Nat, 16 ≤ W → 16 ≤ V →
    (∀ c, AgreeLow (Engine.fresh c : Engine W) (Engine.fresh c : Engine V)) ∧
    ∀ (e : Engine W) (f : Engine V), AgreeLow e f →
      e.digest = f.digest ∧ e.strength = f.strength ∧
      ∀ b, e.tested b = f.tested b ∧ e.hit b = f.hit b ∧ AgreeLow (e.roll b) (f.roll b) ∧
        AgreeLow (e.scanned b) (f.scanned b)

/-! ## Sequences of commands

`transact`, `transactAll` and `responses` are a host that takes each response before it presents the next word (R49,
R194); that such a transaction is one unit, and the pseudo-operations folds of it, is log entry 17 (DEDUCED). -/

/-- R32: two states with equal logical window, `cb`, FAULT and CAUSE, both in closed form, give equal responses to
every sequence of words, whatever their `wofs`; and every word is answered. -/
def Obligations.EqualViewsGiveEqualResponses : Prop :=
  ∀ (s t : State) (ws : List CmdWord), SameView s t → ClosedForm s.engine → ClosedForm t.engine →
    ∃ rs, responses ws s = some rs ∧ responses ws t = some rs ∧ rs.length = ws.length

/-- R108: a host that sends only the last 64 bytes of a long buffer to the same state gets the same responses from
then on. -/
def Obligations.LastBytesSuffice : Prop :=
  ∀ (s : State) (buf : List Byte) (ws : List CmdWord), s.fault = false → s.response = none →
    ClosedForm s.engine → 64 ≤ buf.length →
    ∃ t u, rollBuf buf s = some (t, .rolled) ∧ rollBuf (buf.drop (buf.length - 64)) s = some (u, .rolled) ∧
      responses ws t = responses ws u

/-- R106, R107: ROLLBUF on a block that is not faulted rolls every byte in order, and may be cut anywhere. -/
def Obligations.RollBufRollsEveryByte : Prop :=
  ∀ (s : State) (a c : List Byte), s.fault = false → s.response = none →
    rollBuf a s = some ({ s with engine := s.engine.rollAll a }, .rolled) ∧
    rollBuf (a ++ c) s = (rollBuf a s).bind fun p => rollBuf c p.1

/-- R86, R161, R164, R165: a run of words from a block that is not faulted ends without a fault exactly when every word
is a legal command whose operand is accepted, and then every answer was OK. -/
def Obligations.RunIsSafeExactlyWhenEveryWordIsAccepted : Prop :=
  ∀ (s : State) (ws : List CmdWord), Healthy s → s.response = none →
    ∃ t rs, transactAll ws s = some (t, rs) ∧ rs.length = ws.length ∧
      (Healthy t ↔ ∀ w ∈ ws, ∃ i, decode w = .ok i ∧ Instr.accepted i = true) ∧
      (Healthy t ↔ ∀ r ∈ rs, isOk r = true)

/-- R84: CONFIG c, any rolls and RESET end in the state after CONFIG c alone; INIT ends in the state after
CONFIG 13. -/
def Obligations.ResetEqualsConstruction : Prop :=
  ∀ (s : State) (c : Byte) (buf : List Byte), s.fault = false → s.response = none → c.toNat ≤ 31 →
    ∃ t, (transactAll ([encode (.config c)] ++ buf.map (fun b => encode (.roll b)) ++ [encode .reset]) s).map
        (fun p => p.1) = some t ∧
      (transactAll [encode (.config c)] s).map (fun p => p.1) = some t ∧
      (transactAll [encode .init] s).map (fun p => p.1) =
        (transactAll [encode (.config 13)] s).map (fun p => p.1)

/-- R111: any number of DIGEST commands may be put anywhere into a command sequence without changing the other
responses or the end state; they all answer the same value. -/
def Obligations.DigestDisturbsNothing : Prop :=
  ∀ (s : State) (ws vs : List CmdWord) (n : Nat), s.response = none →
    ∃ t rs qs d, rs.length = ws.length ∧
      transactAll (ws ++ vs) s = some (t, rs ++ qs) ∧
      transactAll (ws ++ List.replicate n (encode .digest) ++ vs) s = some (t, rs ++ List.replicate n d ++ qs)

/-- R135, R136, R137, R140: FINDCHUNK on a block that is not faulted issues the SCANs in order and stops after the
first boundary: the SCANs before it had BOUNDARY = 0 and it had 1; with NONE every byte was scanned without one, and
an empty buffer changes nothing. -/
def Obligations.FindChunkStopsAtFirstBoundary : Prop :=
  ∀ (s : State) (buf : List Byte), s.fault = false → s.response = none →
    ∃ t rs, (∀ r ∈ rs, isOk r = true) ∧
      ((∃ i, findChunk buf s = some (t, .boundary i) ∧ i < buf.length ∧ t.engine = Engine.fresh s.engine.cb ∧
          transactAll ((buf.take (i + 1)).map fun b => encode (.scan b)) s = some (t, rs) ∧
          rs.map boundaryField = List.replicate i false ++ [true]) ∨
        (findChunk buf s = some (t, .none) ∧ (buf = [] → t = s) ∧
          transactAll (buf.map fun b => encode (.scan b)) s = some (t, rs) ∧
          rs.map boundaryField = List.replicate buf.length false))

/-- R138: a FINDCHUNK that finds nothing is continued by the next one: together they are FINDCHUNK of the joined
buffer, the index counted from its start; one that finds a boundary in the first buffer finds it in the joined one. -/
def Obligations.FindChunkContinues : Prop :=
  ∀ (s t : State) (a c : List Byte), s.fault = false → s.response = none →
    (findChunk a s = some (t, .none) →
      (∀ u, findChunk c t = some (u, .none) ↔ findChunk (a ++ c) s = some (u, .none)) ∧
      (∀ u i, findChunk c t = some (u, .boundary i) ↔
        findChunk (a ++ c) s = some (u, .boundary (a.length + i)))) ∧
    (∀ i, findChunk a s = some (t, .boundary i) → findChunk (a ++ c) s = some (t, .boundary i))

/-- R141: if FINDCHUNK finds a boundary at i, from a state in closed form with an all-zero window or with i >= 63,
rolling the chunk alone from a fresh engine meets the predicate. -/
def Obligations.SplitCorrectness : Prop :=
  ∀ (s t : State) (buf : List Byte) (i : Nat), s.fault = false → s.response = none → ClosedForm s.engine →
    findChunk buf s = some (t, .boundary i) → (s.engine.windowZero = true ∨ 63 ≤ i) →
    boundary ((Engine.fresh s.engine.cb : Engine 32).rollAll (buf.take (i + 1))).digest s.engine.cb = true

/-- R195, R196: right after a SCAN with BOUNDARY = 1 DIGEST answers the fresh digest, and COUNTBITS 15 when `cb` is
13; right after one with BOUNDARY = 0 DIGEST answers the SCAN's data. -/
def Obligations.ReadsAfterScan : Prop :=
  ∀ (s : State) (b : Byte), s.fault = false → s.response = none →
    (s.engine.hit b = true →
      responses [encode (.scan b), encode .digest] s = some [⟨0x80, s.engine.tested b⟩, ⟨0x00, 0x07C0E840⟩] ∧
      (s.engine.cb = 13 →
        responses [encode (.scan b), encode .countbits] s = some [⟨0x80, s.engine.tested b⟩, ⟨0x00, 15⟩])) ∧
    (s.engine.hit b = false →
      responses [encode (.scan b), encode .digest] s =
        some [⟨0x00, s.engine.tested b⟩, ⟨0x00, s.engine.tested b⟩])

/-- Of `stepAt`, the model's form of several instances: a step of one leaves every other as it was, and the order of
steps of two does not matter. That several instances are a list of whole states of which the platform steps one at a
time is the model's reading of R50 and R175 (log entry 18, DEDUCED). The statement is about `stepAt` alone: `step` is
the step of one instance and sees no other. -/
def Obligations.InstancesShareNothing : Prop :=
  ∀ (sys : System) (j k : Nat), j ≠ k →
    (∀ sys', stepAt k sys = some sys' → sys'[j]? = sys[j]? ∧ sys'.length = sys.length) ∧
    (stepAt j sys).bind (stepAt k) = (stepAt k sys).bind (stepAt j)

/-! ## Assembly text -/

/-- R71: assembling the text of a command gives its encoding. -/
def Obligations.AssembleInvertsText : Prop :=
  ∀ i : Instr, assembleLine (asmText i) = .ok (some (.word (encode i)))

/-- R70: the assembler refuses an operand above 255 and an operand on a command that takes none, and only `.word`
spells an illegal word. The names of the refusals are the model's choice (log entry 16, DESIGN CHOICE). -/
def Obligations.AssemblerRefusals : Prop :=
  (∀ (cs : List Char) (n : Nat), numberValue cs = some n → 256 ≤ n →
    ∀ m ∈ ["CONFIG".toList, "ROLL".toList, "SCAN".toList], asmTokens m [.plain cs] = .error .outOfRange) ∧
  (∀ (t : Token) (ts : List Token),
    ∀ m ∈ ["INIT".toList, "RESET".toList, "DIGEST".toList, "COUNTBITS".toList],
      asmTokens m (t :: ts) = .error .unexpectedOperand) ∧
  ∀ (m : List Char) (ts : List Token) (w : CmdWord), asmTokens m ts = .ok (.word w) →
    m = ".word".toList ∨ CmdWord.legal w = true

/-! ## Relations that every step, or every roll, keeps -/

/-- R32 as a lemma of one step: two states the host cannot tell apart take steps alike and stay so. The port (pending
response, host actions) is part of the relation, in the model's form of it (log entries 1 and 2). -/
def Obligations.StepKeepsIndistinguishable : Prop :=
  ∀ s t : State, Indistinguishable s t →
    (∀ s', step s = .next s' → ∃ t', step t = .next t' ∧ Indistinguishable s' t') ∧
    ∀ x, step s = .refused x → step t = .refused x

/-- R30's general form as a lemma of one roll: for every accumulator width and any initial accumulators, if the closed
form holds after `n` rolls it holds after `n + 1`; and an all-zero window is the case of no roll. -/
def Obligations.RollKeepsOffsetForm : Prop :=
  ∀ (W : Nat) (S1 S2 : BitVec W) (n : Nat) (e : Engine W),
    (∀ b, OffsetForm S1 S2 n e → OffsetForm S1 S2 (n + 1) (e.roll b)) ∧
    (e.windowZero = true → OffsetForm e.s1 e.s2 0 e)
end

