-- ==== Sys2Proof/Laws/State.lean ====
section
/-! SUPPORT. One lemma per field per named update of the engine and the state, and the window primitives' laws. -/

namespace Sys2Proof.Machine

variable {W : Nat}

/-! ### Window primitives -/

@[simp] theorem Engine.winRead_winWrite_same (e : Engine W) (k : Slot) (b : Byte) :
    (e.winWrite k b).winRead k = b := by simp [winWrite, winRead]

theorem Engine.winRead_winWrite_other (e : Engine W) {k j : Slot} (b : Byte) (h : j ≠ k) :
    (e.winWrite k b).winRead j = e.winRead j := by
  have : k.toNat ≠ j.toNat := fun hk => h (BitVec.eq_of_toNat_eq hk.symm)
  simp [winWrite, winRead, this]

theorem Engine.winRead_winWrite (e : Engine W) (k j : Slot) (b : Byte) :
    (e.winWrite k b).winRead j = if j = k then b else e.winRead j := by
  split
  · next h => subst h; simp
  · next h => exact winRead_winWrite_other e b h

@[simp] theorem Engine.winWrite_s1 (k : Slot) (b : Byte) (e : Engine W) : (e.winWrite k b).s1 = e.s1 := rfl
@[simp] theorem Engine.winWrite_s2 (k : Slot) (b : Byte) (e : Engine W) : (e.winWrite k b).s2 = e.s2 := rfl
@[simp] theorem Engine.winWrite_wofs (k : Slot) (b : Byte) (e : Engine W) : (e.winWrite k b).wofs = e.wofs := rfl
@[simp] theorem Engine.winWrite_cb (k : Slot) (b : Byte) (e : Engine W) : (e.winWrite k b).cb = e.cb := rfl

/-! ### FRESH -/

@[simp] theorem Engine.fresh_s1 (c : ChunkBits) : (fresh c : Engine W).s1 = BitVec.ofNat W 1984 := rfl
@[simp] theorem Engine.fresh_s2 (c : ChunkBits) : (fresh c : Engine W).s2 = BitVec.ofNat W 124992 := rfl
@[simp] theorem Engine.fresh_window (c : ChunkBits) : (fresh c : Engine W).window = Vector.replicate 64 0 := rfl
@[simp] theorem Engine.fresh_wofs (c : ChunkBits) : (fresh c : Engine W).wofs = 0 := rfl
@[simp] theorem Engine.fresh_cb (c : ChunkBits) : (fresh c : Engine W).cb = c := rfl

@[simp] theorem Engine.fresh_winRead (c : ChunkBits) (k : Slot) : (fresh c : Engine W).winRead k = 0 := by
  simp [winRead]

/-! ### The roll -/

@[simp] theorem Engine.roll_s1 (b : Byte) (e : Engine W) :
    (e.roll b).s1 = nextS1 e.s1 b (e.winRead e.wofs) := rfl
@[simp] theorem Engine.roll_s2 (b : Byte) (e : Engine W) :
    (e.roll b).s2 = nextS2 e.s2 (nextS1 e.s1 b (e.winRead e.wofs)) (e.winRead e.wofs) := rfl
@[simp] theorem Engine.roll_window (b : Byte) (e : Engine W) :
    (e.roll b).window = (e.winWrite e.wofs b).window := rfl
@[simp] theorem Engine.roll_wofs (b : Byte) (e : Engine W) : (e.roll b).wofs = e.wofs + 1 := rfl
@[simp] theorem Engine.roll_cb (b : Byte) (e : Engine W) : (e.roll b).cb = e.cb := rfl

theorem Engine.roll_winRead (b : Byte) (e : Engine W) (k : Slot) :
    (e.roll b).winRead k = if k = e.wofs then b else e.winRead k :=
  e.winRead_winWrite e.wofs k b

theorem Engine.scanned_of_hit {b : Byte} {e : Engine W} (h : e.hit b = true) : e.scanned b = fresh e.cb := by
  simp [scanned, h]

theorem Engine.scanned_of_miss {b : Byte} {e : Engine W} (h : e.hit b = false) : e.scanned b = e.roll b := by
  simp [scanned, h]

@[simp] theorem Engine.scanned_cb (b : Byte) (e : Engine W) : (e.scanned b).cb = e.cb := by
  unfold scanned; split <;> rfl

/-! ### Updates of the state -/

variable (s : State)

@[simp] theorem State.respond_engine (st : Status) (v : Bool) (d : DataWord) : (s.respond st v d).engine = s.engine := rfl
@[simp] theorem State.respond_fault (st : Status) (v : Bool) (d : DataWord) : (s.respond st v d).fault = s.fault := rfl
@[simp] theorem State.respond_cause (st : Status) (v : Bool) (d : DataWord) : (s.respond st v d).cause = s.cause := rfl
@[simp] theorem State.respond_inputs (st : Status) (v : Bool) (d : DataWord) : (s.respond st v d).inputs = s.inputs := rfl
@[simp] theorem State.respond_response (st : Status) (v : Bool) (d : DataWord) :
    (s.respond st v d).response = some ⟨statusByte st v, d⟩ := rfl

@[simp] theorem State.withEngine_engine (e : Engine Config.accWidth) : (s.withEngine e).engine = e := rfl
@[simp] theorem State.withEngine_fault (e : Engine Config.accWidth) : (s.withEngine e).fault = s.fault := rfl
@[simp] theorem State.withEngine_cause (e : Engine Config.accWidth) : (s.withEngine e).cause = s.cause := rfl
@[simp] theorem State.withEngine_response (e : Engine Config.accWidth) : (s.withEngine e).response = s.response := rfl
@[simp] theorem State.withEngine_inputs (e : Engine Config.accWidth) : (s.withEngine e).inputs = s.inputs := rfl

@[simp] theorem State.raiseFault_engine (c : Cause) (d : DataWord) : (s.raiseFault c d).engine = s.engine := rfl
@[simp] theorem State.raiseFault_fault (c : Cause) (d : DataWord) : (s.raiseFault c d).fault = true := rfl
@[simp] theorem State.raiseFault_cause (c : Cause) (d : DataWord) : (s.raiseFault c d).cause = c := rfl
@[simp] theorem State.raiseFault_inputs (c : Cause) (d : DataWord) : (s.raiseFault c d).inputs = s.inputs := rfl
@[simp] theorem State.raiseFault_response (c : Cause) (d : DataWord) :
    (s.raiseFault c d).response = some ⟨statusByte (statusOfCause c) false, d⟩ := rfl

@[simp] theorem State.answerFaulted_engine : s.answerFaulted.engine = s.engine := rfl
@[simp] theorem State.answerFaulted_fault : s.answerFaulted.fault = s.fault := rfl
@[simp] theorem State.answerFaulted_cause : s.answerFaulted.cause = s.cause := rfl
@[simp] theorem State.answerFaulted_inputs : s.answerFaulted.inputs = s.inputs := rfl
@[simp] theorem State.answerFaulted_response :
    s.answerFaulted.response = some ⟨statusByte .faulted false, dataOfCause s.cause⟩ := rfl

@[simp] theorem State.powerOn_engine : s.powerOn.engine = Engine.fresh 13 := rfl
@[simp] theorem State.powerOn_fault : s.powerOn.fault = false := rfl
@[simp] theorem State.powerOn_cause : s.powerOn.cause = .none := rfl
@[simp] theorem State.powerOn_response : s.powerOn.response = none := rfl
@[simp] theorem State.powerOn_inputs : s.powerOn.inputs = s.inputs := rfl

@[simp] theorem State.takeResponse_engine : s.takeResponse.engine = s.engine := rfl
@[simp] theorem State.takeResponse_fault : s.takeResponse.fault = s.fault := rfl
@[simp] theorem State.takeResponse_cause : s.takeResponse.cause = s.cause := rfl
@[simp] theorem State.takeResponse_response : s.takeResponse.response = none := rfl
@[simp] theorem State.takeResponse_inputs : s.takeResponse.inputs = s.inputs := rfl

end Sys2Proof.Machine
end

