-- ==== Sys2Proof/Laws/Ops.lean ====
section
/-! SUPPORT. What each shared operation can do, said once: the roll's arithmetic, the fields of a status byte, the
guard on FAULT, a word at the block, a step at the port. -/

namespace Sys2Proof.Machine

variable {W : Nat}

/-! ### Arithmetic of the roll -/

/-- R103: `s1 + b - old` is the exact integer reduced modulo `2^W`. -/
theorem nextS1_eq_ofInt (s1 : BitVec W) (b old : Byte) :
    nextS1 s1 b old = BitVec.ofInt W ((s1.toNat : Int) + b.toNat - old.toNat) := by
  have e : ∀ v : Byte, v.setWidth W = BitVec.ofInt W (v.toNat : Int) := by
    intro v; apply BitVec.eq_of_toNat_eq; simp
  have f : s1 = BitVec.ofInt W (s1.toNat : Int) := by apply BitVec.eq_of_toNat_eq; simp
  rw [nextS1, e, e, Int.sub_eq_add_neg, BitVec.ofInt_add, BitVec.ofInt_add, BitVec.ofInt_neg,
    BitVec.sub_eq_add_neg, ← f]

/-- R103: `s2 + s1 - 64 * (old + 31)` is the exact integer reduced modulo `2^W`. -/
theorem nextS2_eq_ofInt (s2 s1 : BitVec W) (old : Byte) :
    nextS2 s2 s1 old = BitVec.ofInt W ((s2.toNat : Int) + s1.toNat - 64 * (old.toNat + 31)) := by
  have f : ∀ v : BitVec W, BitVec.ofInt W (v.toNat : Int) = v := by
    intro v; apply BitVec.eq_of_toNat_eq; simp
  have g : BitVec.ofNat W (Config.windowSize * (old.toNat + Config.charOffset)) =
      BitVec.ofInt W (64 * (old.toNat + 31)) := by
    rw [← BitVec.ofInt_natCast]; simp
  rw [nextS2, g, Int.sub_eq_add_neg, BitVec.ofInt_add, BitVec.ofInt_add, BitVec.ofInt_neg,
    BitVec.sub_eq_add_neg, f, f]

/-! ### The status byte -/

@[simp] theorem statusField_statusByte (st : Status) (v : Bool) (d : DataWord) :
    statusField ⟨statusByte st v, d⟩ = statusCode st := by
  have h : (statusByte st v).extractLsb' 0 2 = statusCode st := by cases st <;> cases v <;> decide
  exact h

@[simp] theorem reservedField_statusByte (st : Status) (v : Bool) (d : DataWord) :
    reservedField ⟨statusByte st v, d⟩ = 0 := by
  have h : (statusByte st v).extractLsb' 2 5 = 0 := by cases st <;> cases v <;> decide
  exact h

@[simp] theorem boundaryField_statusByte (st : Status) (v : Bool) (d : DataWord) :
    boundaryField ⟨statusByte st v, d⟩ = v := by
  have h : (statusByte st v).getLsbD 7 = v := by cases st <;> cases v <;> decide
  exact h

@[simp] theorem isOk_statusByte_ok (v : Bool) (d : DataWord) : isOk ⟨statusByte .ok v, d⟩ = true := by
  simp [isOk]

/-! ### The guard on FAULT -/

theorem unlessFaulted_of_fault {s : State} (t : State) (h : s.fault = true) :
    unlessFaulted s t = .next s.answerFaulted := by simp [unlessFaulted, h]

theorem unlessFaulted_of_healthy {s : State} (t : State) (h : s.fault = false) :
    unlessFaulted s t = .next t := by simp [unlessFaulted, h]

/-! ### Fields of a word -/

/-- Every word is the format C16 of its three fields (R61). -/
theorem word_fields (w : CmdWord) : w = opField w ++ rsvField w ++ imm8Field w := by
  apply BitVec.eq_of_getLsbD_eq
  intro i hi
  simp only [opField, rsvField, imm8Field, BitVec.getLsbD_append, BitVec.getLsbD_extractLsb']
  by_cases h8 : i < 8
  · simp [h8]
  · by_cases h12 : i - 8 < 4
    · have : 8 + (i - 8) = i := by omega
      simp [h8, h12, this]
    · have e : 12 + (i - 8 - 4) = i := by omega
      have l : i - 8 - 4 < 4 := by omega
      simp [h8, h12, e, l]

/-- The fields of a word made of three fields are those fields (R61). -/
@[simp] theorem opField_append (op r : BitVec 4) (m : Byte) : opField (op ++ r ++ m) = op := by
  apply BitVec.eq_of_getLsbD_eq
  intro i hi
  have a : ¬ 12 + i < 8 := by omega
  have b : ¬ 12 + i - 8 < 4 := by omega
  have c : 12 + i - 8 - 4 = i := by omega
  simp only [opField, BitVec.getLsbD_extractLsb', BitVec.getLsbD_append]
  simp [a, b, c, hi]

@[simp] theorem rsvField_append (op r : BitVec 4) (m : Byte) : rsvField (op ++ r ++ m) = r := by
  apply BitVec.eq_of_getLsbD_eq
  intro i hi
  have a : ¬ 8 + i < 8 := by omega
  have b : 8 + i - 8 = i := by omega
  simp only [rsvField, BitVec.getLsbD_extractLsb', BitVec.getLsbD_append]
  simp [a, b, hi]

@[simp] theorem imm8Field_append (op r : BitVec 4) (m : Byte) : imm8Field (op ++ r ++ m) = m := by
  apply BitVec.eq_of_getLsbD_eq
  intro i hi
  simp only [imm8Field, BitVec.getLsbD_extractLsb', BitVec.getLsbD_append]
  simp [hi]

/-! ### A word at the block -/

/-- What a word does (R166): the faulted answer, a fault entry for an illegal word, or the command it encodes. -/
theorem execWord_cases (w : CmdWord) (s : State) :
    (s.fault = true ∧ execWord w s = .next s.answerFaulted) ∨
    (s.fault = false ∧ (∃ e, decode w = .error e) ∧
      execWord w s = .next (s.raiseFault .illegalCommand (dataOfWord w))) ∨
    (s.fault = false ∧ ∃ i, decode w = .ok i ∧ execWord w s = exec i s) := by
  unfold execWord
  cases hf : s.fault
  · cases hd : decode w
    · exact .inr (.inl ⟨rfl, ⟨_, rfl⟩, rfl⟩)
    · exact .inr (.inr ⟨rfl, _, rfl, rfl⟩)
  · exact .inl ⟨rfl, rfl⟩

/-! ### A step at the port -/

/-- Everything a step with a next state can be: no action left, taking the response, power-on, or a word presented
with no command outstanding. -/
theorem stepPort_next_cases {s t : State} (h : stepPort s = .next t) :
    (s.inputs = [] ∧ t = s) ∨
    (∃ rest, s.inputs = .take :: rest ∧ t = { s with inputs := rest, response := none }) ∨
    (∃ rest, s.inputs = .powerOn :: rest ∧ t = { State.reset with inputs := rest }) ∨
    (∃ w rest, s.inputs = .present w :: rest ∧ s.response = none ∧
      execWord w { s with inputs := rest } = .next t) := by
  unfold stepPort at h
  split at h
  · next hi => exact .inl ⟨hi, by cases h; rfl⟩
  · next a rest hi =>
    cases a with
    | present w =>
      simp only [perform, issue] at h
      split at h
      · cases h
      · next hr => exact .inr (.inr (.inr ⟨w, rest, hi, hr, h⟩))
    | take => exact .inr (.inl ⟨rest, hi, by cases h; rfl⟩)
    | powerOn => exact .inr (.inr (.inl ⟨rest, hi, by cases h; rfl⟩))

theorem issue_of_idle {s : State} (w : CmdWord) (h : s.response = none) : issue w s = execWord w s := by
  simp [issue, h]

end Sys2Proof.Machine
end

