-- ==== Sys2Proof/Laws/HostOps.lean ====
section
/-! SUPPORT. One transaction of the host, and sequences of them. -/

namespace Sys2Proof.Machine

/-- A transaction is what the word does, with the response taken. -/
theorem transact_of_execWord {w : CmdWord} {s t : State} {r : Response} (hs : s.response = none)
    (h : execWord w s = .next t) (hr : t.response = some r) : transact w s = some (t.takeResponse, r) := by
  simp [transact, issue_of_idle w hs, h, hr]

/-- A sequence of words may be cut anywhere. -/
theorem transactAll_append (ws vs : List CmdWord) (s : State) :
    transactAll (ws ++ vs) s =
      (transactAll ws s).bind fun p => (transactAll vs p.1).map fun q => (q.1, p.2 ++ q.2) := by
  induction ws generalizing s with
  | nil => simp [transactAll]
  | cons w ws ih =>
    simp only [List.cons_append, transactAll]
    cases transact w s with
    | none => rfl
    | some p =>
      simp only [ih]
      cases transactAll ws p.1 with
      | none => rfl
      | some q =>
        simp only [Option.bind_some, Option.map_some]
        cases transactAll vs q.1 <;> simp

end Sys2Proof.Machine
end

