-- ==== Sys2Proof/Laws/PerInstr.lean ====
section
/-! SUPPORT. Statements for all instructions, one lemma per constructor. -/

namespace Sys2Proof.Laws.EncodingLegal

/-- The encoding of the command is a legal word of format C16: it matches its row's mask and its `rsv` field is 0
(spec 30_encoding R61, R64). -/
def Statement (i : Instr) : Prop := CmdWord.legal (encode i) = true ∧ rsvField (encode i) = 0

theorem init : Statement .init := by unfold Statement; decide

theorem config (c : Byte) : Statement (.config c) := by unfold Statement; revert c; decide

theorem reset : Statement .reset := by unfold Statement; decide

theorem roll (b : Byte) : Statement (.roll b) := by unfold Statement; revert b; decide

theorem scan (b : Byte) : Statement (.scan b) := by unfold Statement; revert b; decide

theorem digest : Statement .digest := by unfold Statement; decide

theorem countbits : Statement .countbits := by unfold Statement; decide

end Sys2Proof.Laws.EncodingLegal
end

