-- ==== Sys2Proof/Laws/Window.lean ====
section
/-! SUPPORT. The digest bit by bit, the logical window under a roll, and the sums over a list of bytes. -/

namespace Sys2Proof.Machine

variable {W : Nat}

/-! ### The digest -/

/-- The digest is the low halves of the accumulators side by side (R110). -/
theorem Engine.digest_eq_append (e : Engine W) :
    e.digest = e.s1.extractLsb' 0 16 ++ e.s2.extractLsb' 0 16 := by
  apply BitVec.eq_of_getLsbD_eq
  intro i hi
  simp only [digest, BitVec.getLsbD_or, BitVec.getLsbD_append, BitVec.getLsbD_shiftLeft,
    BitVec.getLsbD_setWidth, hi]
  by_cases h : i < 16
  · simp [h]
  · have h' : i - 16 < 32 := by omega
    have z : (e.s2.extractLsb' 0 16).getLsbD i = false := BitVec.getLsbD_of_ge _ _ (by omega)
    simp [h, h', z]

/-! ### The logical window -/

@[simp] theorem Engine.logical_length (e : Engine W) : e.logical.length = 64 := by simp [logical]

/-- The oldest byte of the logical window is the one the next roll evicts (R29). -/
theorem Engine.logical_eq_cons (e : Engine W) :
    e.logical = e.winRead e.wofs :: (List.range 63).map fun j => e.logicalAt (j + 1) := by
  have h0 : e.logicalAt 0 = e.winRead e.wofs := by simp [logicalAt]
  rw [logical, List.range_succ_eq_map, List.map_cons, h0, List.map_map]
  rfl

/-- Slots ahead of `wofs` are not `wofs`. -/
theorem slot_add_ne (k : Slot) {j : Nat} (h1 : 0 < j) (h2 : j < 64) : k + BitVec.ofNat 6 j ≠ k := by
  intro h
  have hn := congrArg BitVec.toNat h
  rw [BitVec.toNat_add] at hn
  simp only [BitVec.toNat_ofNat] at hn
  have := k.isLt
  omega

theorem Engine.logicalAt_roll (e : Engine W) (b : Byte) {j : Nat} (h : j < 63) :
    (e.roll b).logicalAt j = e.logicalAt (j + 1) := by
  have hw : e.wofs + 1 + BitVec.ofNat 6 j = e.wofs + BitVec.ofNat 6 (j + 1) := by
    rw [BitVec.ofNat_add, BitVec.add_assoc, BitVec.add_comm (1 : Slot)]
    rfl
  unfold logicalAt
  rw [roll_wofs, roll_winRead, hw, if_neg (slot_add_ne _ (by omega) (by omega))]

theorem Engine.logicalAt_roll_newest (e : Engine W) (b : Byte) : (e.roll b).logicalAt 63 = b := by
  have hw : e.wofs + 1 + BitVec.ofNat 6 63 = e.wofs := by
    rw [BitVec.add_assoc]
    simp
  unfold logicalAt
  rw [roll_wofs, roll_winRead, hw, if_pos rfl]

/-- A roll drops the oldest byte and adds the new one (R29). -/
theorem Engine.logical_roll (e : Engine W) (b : Byte) : (e.roll b).logical = e.logical.tail ++ [b] := by
  rw [logical_eq_cons e, logical, List.range_succ, List.map_append, List.tail_cons]
  congr 1
  · exact List.map_congr_left fun j hj => logicalAt_roll e b (by simpa using hj)
  · simp [logicalAt_roll_newest]

/-! ### Sums over bytes -/

theorem byteSum_append (a c : List Byte) : byteSum (a ++ c) = byteSum a + byteSum c := by
  induction a with
  | nil => simp [byteSum]
  | cons x a ih => simp only [List.cons_append, byteSum, ih]; omega

theorem weightedSum_append (a c : List Byte) :
    weightedSum (a ++ c) = weightedSum a + c.length * byteSum a + weightedSum c := by
  induction a with
  | nil => simp [byteSum, weightedSum]
  | cons x a ih => simp only [List.cons_append, weightedSum, byteSum, ih, List.length_append]; ring

theorem byteSum_le (l : List Byte) : byteSum l ≤ 255 * l.length := by
  induction l with
  | nil => simp [byteSum]
  | cons x l ih =>
    have := x.isLt
    simp only [byteSum, List.length_cons]
    omega

@[simp] theorem Engine.rollAll_nil (e : Engine W) : e.rollAll [] = e := rfl

@[simp] theorem Engine.rollAll_cons (e : Engine W) (b : Byte) (bs : List Byte) :
    e.rollAll (b :: bs) = (e.roll b).rollAll bs := rfl

end Sys2Proof.Machine
end

