-- ==== Sys2Proof/Tests/Slice0.lean ====
section
/-! SUPPORT. The model's own tests: the smoke tests of the well-formedness checks, decoding, at most two one-step tests
a command, and a witness for the hypotheses of each statement. Expected values are those of spec/95_test_vectors.md
(the vector's name stands in the comment) or worked out by hand from the rule named. -/

namespace Sys2Proof.Tests

open Sys2Proof.Machine Sys2Proof.Safety

/-- A fresh block with `chunk_bits` c and no fault. -/
def freshState (c : ChunkBits) : State := { State.reset with engine := Engine.fresh c }

/-- A block faulted by an illegal word. -/
def faultedState : State := { State.reset with fault := true, cause := .illegalCommand }

/-- The engine after 64 rolls of 0xFF (V-RL-10). -/
def fullEngine : Engine 32 :=
  { s1 := 18304, s2 := 655392, window := Vector.replicate 64 0xFF, wofs := 0, cb := 13 }

/-- The response and the engine of a step, where it has a next state with a response. -/
def answered (o : Host.Outcome State Fault Refusal) : Option (Response × Engine 32) :=
  match o with
  | .next t => t.response.map fun r => (r, t.engine)
  | .fault _ => none
  | .refused _ => none

/-- The response alone. -/
def answer (o : Host.Outcome State Fault Refusal) : Option Response := (answered o).map fun p => p.1

/-- FAULT, CAUSE and `cb` of the next state. -/
def control (o : Host.Outcome State Fault Refusal) : Option (Bool × Cause × ChunkBits) :=
  match o with
  | .next t => some (t.fault, t.cause, t.engine.cb)
  | .fault _ => none
  | .refused _ => none

/-! ### Well-formedness: each check refuses an ill-formed term -/

theorem test_reserved_opcode_is_not_legal :
    CmdWord.legal 0x0000 = false ∧ CmdWord.legal 0x8000 = false ∧ CmdWord.legal 0xFFFF = false := by decide

theorem test_reserved_field_is_not_legal :
    CmdWord.hasByteOperand 0x2104 = false ∧ CmdWord.legal 0x2104 = false ∧ CmdWord.legal 0x4F41 = false := by decide

theorem test_operand_on_operandless_is_not_legal :
    CmdWord.hasNoOperand 0x1001 = false ∧ CmdWord.legal 0x1001 = false ∧ CmdWord.legal 0x3080 = false ∧
    CmdWord.legal 0x6001 = false ∧ CmdWord.legal 0x7080 = false := by decide

theorem test_chunk_bits_32_is_not_accepted :
    Instr.accepted (.config 32) = false ∧ Instr.accepted (.config 31) = true := by decide

/-! ### Decoding: V-DEC-1 to V-DEC-18, the words written out bit by bit -/

theorem test_decode_construction_words :
    decode 0b0001000000000000#16 = .ok .init ∧ decode 0b0010000000011111#16 = .ok (.config 31) ∧
    decode 0b0010000011111111#16 = .ok (.config 255) := by decide

theorem test_decode_rolling_hash_words :
    decode 0b0011000000000000#16 = .ok .reset ∧ decode 0b0100000011111111#16 = .ok (.roll 255) ∧
    decode 0b0110000000000000#16 = .ok .digest := by decide

theorem test_decode_boundary_words :
    decode 0b0101000000000001#16 = .ok (.scan 1) ∧ decode 0b0111000000000000#16 = .ok .countbits := by decide

theorem test_decode_refuses_by_name :
    decode 0x0000 = .error .reservedOpcode ∧ decode 0x9000 = .error .reservedOpcode ∧
    decode 0x4F41 = .error .reservedField ∧ decode 0x1001 = .error .operandNotZero := by decide

theorem test_encode_words :
    [Instr.init, .config 4, .reset, .roll 0x41, .scan 0xFF, .digest, .countbits].map encode =
      [0x1000, 0x2004, 0x3000, 0x4041, 0x50FF, 0x6000, 0x7000] := by decide

theorem test_decode_table_word :
    decodeTableWord 16 0x4041 = some (.roll 0x41) ∧ decodeTableWord 16 0x4F41 = none ∧
    decodeTableWord 32 0x14041 = none := by decide

/-! ### The commands, one step each -/

/-- V-CON-5: INIT after CONFIG 4 and a roll. -/
theorem test_init : answered (exec .init { freshState 4 with engine := (Engine.fresh 4).roll 0x41 }) =
    some (⟨0x00, 0⟩, Engine.fresh 13) := by decide

/-- V-CON-3, V-CON-6. -/
theorem test_config_in_range : answered (exec (.config 31) { freshState 13 with engine := (Engine.fresh 13).roll 1 }) =
    some (⟨0x00, 0⟩, Engine.fresh 31) := by decide

/-- V-CON-4: CONFIG 32 faults and keeps the engine. -/
theorem test_config_out_of_range :
    answered (exec (.config 32) (freshState 13)) = some (⟨0x02, 0x20⟩, Engine.fresh 13) ∧
    control (exec (.config 32) (freshState 13)) = some (true, .configError, 13) := by decide

/-- V-RST-2: RESET keeps `cb`. -/
theorem test_reset : answered (exec .reset { freshState 4 with engine := (Engine.fresh 4).roll 0xFF }) =
    some (⟨0x00, 0⟩, Engine.fresh 4) := by decide

/-- V-RL-2. -/
theorem test_roll_fresh : (answered (exec (.roll 1) (freshState 13))).map
      (fun p => (p.1, p.2.s1, p.2.s2, p.2.wofs, p.2.winRead 0, p.2.winRead 1)) =
    some (⟨0x00, 0⟩, 1985, 124993, 1, 1, 0) := by decide

/-- V-RL-11: the 65th roll evicts 0xFF. -/
theorem test_roll_evicts : (answered (exec (.roll 0) { State.reset with engine := fullEngine })).map
      (fun p => (p.2.s1, p.2.s2, p.2.wofs, p.2.winRead 0, p.2.winRead 63, p.2.digest)) =
    some (18049, 655137, 1, 0, 0xFF, 0x4681FF21) := by decide

/-- V-DG-1 and V-RL-10. -/
theorem test_digest :
    answer (exec .digest (freshState 13)) = some ⟨0x00, 0x07C0E840⟩ ∧
    answer (exec .digest { State.reset with engine := fullEngine }) = some ⟨0x00, 0x47800020⟩ := by decide

/-- V-SC-1: a boundary. -/
theorem test_scan_boundary : answered (exec (.scan 0x0F) (freshState 4)) =
    some (⟨0x80, 0x07CFE84F⟩, Engine.fresh 4) := by decide

/-- V-SC-2: no boundary. -/
theorem test_scan_no_boundary : (answered (exec (.scan 0x0E) (freshState 4))).map
      (fun p => (p.1, p.2.digest, p.2.wofs)) = some (⟨0x00, 0x07CEE84E⟩, 0x07CEE84E, 1) := by decide

/-- V-CB-20, V-CB-22. -/
theorem test_countbits :
    answer (exec .countbits (freshState 13)) = some ⟨0x00, 15⟩ ∧
    answer (exec .countbits (freshState 0)) = some ⟨0x00, 0⟩ := by decide

/-- V-CB-1 to V-CB-8: the skip of bit 13. -/
theorem test_count_bits_at_13 :
    [0x1FFF, 0x3FFF, 0x7FFF, 0xFFFF, 0x5FFF, 0xBFFF, 0x1BFFF, 0x2FFF].map (fun d => countBitsFn d 13) =
      [13, 13, 14, 15, 14, 13, 13, 13] := by decide

/-- V-CB-9 to V-CB-18: the ends of the range. -/
theorem test_count_bits_at_the_ends :
    countBitsFn 0xFFFFFFFF 13 = 31 ∧ countBitsFn 0xFFFFFFFF 0 = 31 ∧ countBitsFn 0 0 = 0 ∧ countBitsFn 3 0 = 1 ∧
    countBitsFn 0x7FFFFFFF 31 = 31 ∧ countBitsFn 0x80000000 31 = 31 ∧ countBitsFn 0xFFFFFFFF 30 = 31 := by decide

/-! ### The port -/

/-- V-FT-1, V-FT-3, V-FT-4: the faults and the sticky answer. -/
theorem test_fault_words :
    answer (issue 0x2028 State.reset) = some ⟨0x02, 0x28⟩ ∧
    answer (issue 0x0000 State.reset) = some ⟨0x01, 0⟩ ∧
    answer (issue 0x2028 faultedState) = some ⟨0x03, 1⟩ ∧
    control (issue 0x1000 faultedState) = some (true, .illegalCommand, 13) := by decide

/-- The step runs a placed word as its first command, and V-FT-5 clears the fault. -/
theorem test_step_runs_placed_word :
    answer (step (State.reset.withFetchWord 16 0x6000)) = some ⟨0x00, 0x07C0E840⟩ ∧
    control (step { faultedState with inputs := [.powerOn] }) = some (false, .none, 13) := by decide

/-- V-FC-1 and V-FC-5. -/
theorem test_find_chunk :
    findChunk [] (freshState 13) = some (freshState 13, .none) ∧
    findChunk [5, 6, 7] (freshState 0) = some (freshState 0, .boundary 0) := by decide

/-! ### Assembly text (R70, R71) -/

theorem test_assemble_operands :
    assembleLine "ROLL 'A' ; comment".toList = .ok (some (.word 0x4041)) ∧
    assembleLine "SCAN 0xFF".toList = .ok (some (.word 0x50FF)) ∧
    assembleLine "CONFIG 40".toList = .ok (some (.word 0x2028)) ∧
    assembleLine ".word 0x0000".toList = .ok (some (.word 0x0000)) ∧
    assembleLine "FINDCHUNK 5, 0x06".toList = .ok (some (.findChunk [5, 6])) := by decide +kernel

/-- The model's choice of log entry 16: a quote ends the mnemonic. -/
theorem test_assemble_quote_needs_no_blank :
    assembleLine "ROLL'A'".toList = .ok (some (.word 0x4041)) := by decide +kernel

theorem test_assemble_refusals :
    assembleLine "ROLL 256".toList = .error .outOfRange ∧
    assembleLine "DIGEST 1".toList = .error .unexpectedOperand ∧
    assembleLine "roll 1".toList = .error .unknownMnemonic ∧
    assembleLine "CONFIG 'A'".toList = .error .badOperand := by decide +kernel

/-! ### Witnesses: a state and operands that meet the hypotheses of each statement, each clause at a boundary value -/

theorem witness_StepRunsDecodedCommand :
    let s : State := { State.reset with inputs := [.present 0x6000] }
    decode 0x6000 = .ok .digest ∧ s.inputs = .present 0x6000 :: [] ∧ s.response = none := by decide

/-- The clause of `withFetchWord`, at a state with an untaken response. -/
theorem witness_StepRunsDecodedCommand_withFetchWord :
    let s : State := { State.reset with response := some ⟨0, 0⟩ }
    decode 0x6000 = .ok .digest ∧ answer (step (s.withFetchWord 16 0x6000)) = some ⟨0x00, 0x07C0E840⟩ := by decide

/-- Each clause: no action; a take with a response outstanding and with none; a word presented. -/
theorem witness_StepPerformsNextHostAction :
    let s : State := { State.reset with inputs := [.take], response := some ⟨0, 0⟩ }
    let t : State := { State.reset with inputs := [.take] }
    let u : State := { State.reset with inputs := [.present 0x6000] }
    State.reset.inputs = [] ∧ s.inputs = .take :: [] ∧ (t.inputs = .take :: [] ∧ t.response = none) ∧
      u.inputs = .present 0x6000 :: [] := by decide

theorem witness_TransactionIsPresentThenTake :
    ∃ t r, transact 0x6000 { State.reset with inputs := .take :: [] } = some (t, r) := ⟨_, _, rfl⟩

theorem witness_no_command_outstanding_and_no_fault :
    State.reset.response = none ∧ State.reset.fault = false := by decide

theorem witness_RefusesOnlyBrokenHandshake :
    let s : State := { State.reset with inputs := [.present 0x6000], response := some ⟨0, 0⟩ }
    ∃ rest r, s.inputs = .present 0x6000 :: rest ∧ s.response = some r := ⟨[], ⟨0, 0⟩, rfl, rfl⟩

theorem witness_PowerOnRestoresEveryRegister :
    let s : State := { faultedState with inputs := [.powerOn] }
    s.fault = true ∧ s.inputs = .powerOn :: [] := by decide

/-- A power-on while a response is untaken (log entry 4), with a later action. -/
theorem witness_PowerOnRestoresEveryRegister_untaken_response :
    let s : State := { faultedState with inputs := [.powerOn, .take], response := some ⟨0x03, 1⟩ }
    s.inputs = .powerOn :: [.take] ∧ s.response = some ⟨0x03, 1⟩ := by decide

theorem witness_IllegalWordFaults :
    State.reset.fault = false ∧ State.reset.response = none ∧ ¬ ∃ i, decode 0x4F41 = .ok i := by
  refine ⟨rfl, rfl, ?_⟩
  rintro ⟨i, h⟩
  cases (show decode 0x4F41 = .error .reservedField from rfl).symm.trans h

theorem witness_faulted_block : faultedState.fault = true ∧ faultedState.response = none := by decide

theorem witness_FaultIsStickyUntilPowerOn :
    (∃ t, faultedState.fault = true ∧ step { faultedState with inputs := [.present 0x1000] } = .next t) ∧
    ∃ t, step { faultedState with inputs := [.powerOn] } = .next t ∧ t.fault = false :=
  ⟨⟨_, rfl, rfl⟩, ⟨_, rfl, rfl⟩⟩

theorem witness_FaultChangesOnlyByEntryOrPowerOn :
    (∃ t, step { State.reset with inputs := [.present 0x2020] } = .next t ∧ t.cause = .configError) ∧
    (∃ t, step { State.reset with inputs := [.present 0x0000] } = .next t ∧ t.cause = .illegalCommand) ∧
    ∃ t, step { faultedState with inputs := [.powerOn] } = .next t ∧ t.cause ≠ faultedState.cause :=
  ⟨⟨_, rfl, rfl⟩, ⟨_, rfl, rfl⟩, ⟨_, rfl, by decide⟩⟩

theorem witness_ConfigConstructsOrFaults : (31 : Byte).toNat ≤ 31 ∧ 32 ≤ (32 : Byte).toNat := by decide

theorem witness_ScanRollsTestsAndResets :
    (∀ i < (freshState 4).engine.cb.toNat, ((freshState 4).engine.roll 0x0F).digest.getLsbD i = true) ∧
    ¬ (∀ i < (freshState 4).engine.cb.toNat, ((freshState 4).engine.roll 0x0E).digest.getLsbD i = true) := by decide

theorem witness_CommandsFrame :
    (∃ t, exec (.config 31) State.reset = .next t) ∧ (∃ t, exec (.roll 1) State.reset = .next t) ∧
    (1 : Slot) ≠ State.reset.engine.wofs ∧ State.reset.engine.hit 1 = false :=
  ⟨⟨_, rfl⟩, ⟨_, rfl⟩, by decide, by decide⟩

theorem witness_ChunkBitsWrittenOnlyByConstruction :
    (∃ t, step { State.reset with inputs := [.present 0x2004] } = .next t ∧ t.engine.cb ≠ State.reset.engine.cb) ∧
    ∃ t, step { freshState 4 with inputs := [.powerOn] } = .next t ∧ t.engine.cb ≠ (freshState 4).engine.cb :=
  ⟨⟨_, rfl, by decide⟩, ⟨_, rfl, by decide⟩⟩

theorem witness_BoundaryReadsAccumulatorBits :
    (16 : ChunkBits).toNat ≤ 16 ∧ 16 < (17 : ChunkBits).toNat := by decide

theorem witness_CountSkipsBitAboveBoundary :
    (0x1FFF : DataWord) ≠ 0x3FFF ∧
      ∀ i < 32, (13 : ChunkBits).toNat < i → (0x1FFF : DataWord).getLsbD i = (0x3FFF : DataWord).getLsbD i := by decide

/-- Both values of bit c + 1, at the largest `c` that has such a bit; and `c` 31, whose bit 32 is no bit of `d`. -/
theorem witness_CountSkipsBitAboveBoundary_first_test :
    (0x7FFFFFFF : DataWord).getLsbD ((30 : ChunkBits).toNat + 1) = false ∧
    (0xFFFFFFFF : DataWord).getLsbD ((30 : ChunkBits).toNat + 1) = true ∧
    (0xFFFFFFFF : DataWord).getLsbD ((31 : ChunkBits).toNat + 1) = false := by decide

theorem witness_CountFormulaAtBoundary :
    ((∀ i < 13 + 1, (0x3FFF : DataWord).getLsbD i = true) ∧ (0x3FFF : DataWord).getLsbD (13 + 1) = false) ∧
    ((∀ i < 13 + 0, (0x1FFF : DataWord).getLsbD i = true) ∧ (0x1FFF : DataWord).getLsbD (13 + 0) = false ∧
      (0x1FFF : DataWord).getLsbD (13 + 1) = false) ∧
    ((∀ i < 13 + 19, (0xFFFFFFFF : DataWord).getLsbD i = true) ∧
      (0xFFFFFFFF : DataWord).getLsbD (13 + 19) = false) := by decide

theorem witness_closed_form : ClosedForm (Engine.fresh 31 : Engine 32) ∧ ClosedForm fullEngine :=
  ⟨⟨by decide, by decide⟩, ⟨by decide, by decide⟩⟩

theorem witness_ZeroChunkBitsEveryByteIsBoundary :
    (freshState 0).fault = false ∧ (freshState 0).engine.cb = 0 ∧ (freshState 0).response = none := by decide

theorem witness_ThirtyOneChunkBitsNeverBoundary :
    (freshState 31).fault = false ∧ (freshState 31).response = none ∧ (freshState 31).engine.cb = 31 ∧
    ClosedForm (freshState 31).engine := ⟨rfl, rfl, rfl, by decide, by decide⟩

theorem witness_StepKeepsInvariant :
    Inv (freshState 4) ∧ ∃ t, step { freshState 4 with inputs := [.present 0x500F] } = .next t :=
  ⟨⟨by simp [FaultConsistent, freshState, State.reset], by simp [PendingWellFormed, freshState, State.reset],
    by decide, by decide⟩, _, rfl⟩

theorem witness_ClosedFormForAnyInitialValues :
    ({ s1 := 7, s2 := 9, window := Vector.replicate 64 0, wofs := 5, cb := 0 } : Engine 16).windowZero = true := by
  decide

theorem witness_WidthDoesNotShow :
    16 ≤ 16 ∧ 16 ≤ 32 ∧ AgreeLow (Engine.fresh 13 : Engine 16) (Engine.fresh 13 : Engine 32) :=
  ⟨by decide, by decide, by decide, by decide, rfl, rfl, rfl⟩

theorem witness_EqualViewsGiveEqualResponses :
    let t : State := { State.reset with engine := { State.reset.engine with wofs := 5 } }
    SameView State.reset t ∧ ClosedForm State.reset.engine ∧ ClosedForm t.engine :=
  ⟨⟨by decide, rfl, rfl, rfl, rfl, rfl⟩, ⟨by decide, by decide⟩, ⟨by decide, by decide⟩⟩

theorem witness_LastBytesSuffice :
    64 ≤ (List.replicate 64 (1 : Byte)).length ∧ ClosedForm State.reset.engine :=
  ⟨by decide, by decide, by decide⟩

theorem witness_FindChunkContinues :
    (∃ t, findChunk [0x0E] (freshState 4) = some (t, .none)) ∧
    ∃ t, findChunk [0x0F] (freshState 4) = some (t, .boundary 0) :=
  ⟨⟨_, rfl⟩, ⟨_, rfl⟩⟩

/-- The clause of the all-zero window (V-SC-1). -/
theorem witness_SplitCorrectness_zero_window :
    (∃ t, findChunk [0x0F] (freshState 4) = some (t, .boundary 0)) ∧ (freshState 4).engine.windowZero = true ∧
    ClosedForm (freshState 4).engine :=
  ⟨⟨_, rfl⟩, by decide, by decide, by decide⟩

/-- A block with `cb` 1 that has rolled one byte 2: a nonzero window. -/
def rolledTwo : State := { State.reset with engine := (Engine.fresh 1).roll 2 }

/-- The clause `i >= 63` at 63: by R100 63 zeros keep `s2` even (124994 + 2 k), and the byte 1, which evicts the 2,
makes it 125120 + 1985 - 64 * 33 = 124993, odd. -/
theorem witness_SplitCorrectness_long_chunk :
    (findChunk (List.replicate 63 0 ++ [1]) rolledTwo).map (fun p => p.2) = some (.boundary 63) ∧
    rolledTwo.engine.windowZero = false ∧ ClosedForm rolledTwo.engine :=
  ⟨by decide +kernel, by decide, by decide, by decide⟩

theorem witness_ReadsAfterScan :
    (freshState 4).engine.hit 0x0F = true ∧ (freshState 4).engine.hit 0x0E = false := by decide

/-- A fresh default engine with all low 13 digest bits 1 after a roll: the clause `cb = 13`. -/
theorem witness_ReadsAfterScan_default :
    ({ Engine.fresh 13 with s2 := 0x1FFF } : Engine 32).hit 0 = true := by decide

theorem witness_InstancesShareNothing :
    ∃ sys', stepAt 0 [{ State.reset with inputs := [.present 0x4001] }, State.reset] = some sys' ∧ (1 : Nat) ≠ 0 :=
  ⟨_, rfl, by decide⟩

theorem witness_StepKeepsIndistinguishable :
    let s : State := { State.reset with inputs := [.present 0x500F] }
    let t : State := { s with engine := { s.engine with wofs := 5 } }
    Indistinguishable s t ∧ s ≠ t ∧ (∃ s', step s = .next s') ∧
      step { s with response := some ⟨0, 0⟩ } = .refused .commandOutstanding :=
  ⟨⟨by decide, rfl, rfl, rfl, rfl, rfl, ⟨by decide, by decide⟩, ⟨by decide, by decide⟩⟩, by decide, ⟨_, rfl⟩, rfl⟩

theorem witness_RollKeepsOffsetForm :
    let e : Engine 16 := { s1 := 7, s2 := 9, window := Vector.replicate 64 0, wofs := 5, cb := 0 }
    e.windowZero = true ∧ OffsetForm 7 9 0 e := ⟨by decide, by decide, by decide⟩

theorem witness_RunIsSafeExactlyWhenEveryWordIsAccepted :
    Healthy State.reset ∧ State.reset.response = none ∧ decode 0x201F = .ok (.config 31) ∧
    Instr.accepted (.config 31) = true := ⟨rfl, rfl, by decide, by decide⟩

theorem witness_AssemblerRefusals :
    numberValue "256".toList = some 256 ∧ numberValue "0x100".toList = some 256 ∧
    (asmTokens ".word".toList [.plain "0".toList] = .ok (.word 0)) := by decide +kernel

end Sys2Proof.Tests
end

section
/-! PROOF. The reset state (spec 10_state R34). -/

namespace Sys2Proof.Machine

/-- R34: the engine after power-on reset is that of a default construction. -/
@[simp] theorem State.reset_engine : State.reset.engine = Engine.fresh 13 := rfl

/-- Settles O11: the reset engine is `FRESH(13)`, whose registers and window slots the laws of `Engine.fresh` give; the
fault registers stand in the reset state itself. -/
theorem resetStateIsFreshDefault : Obligations.ResetStateIsFreshDefault := by
  unfold Obligations.ResetStateIsFreshDefault
  rw [State.reset_engine]
  exact ⟨Engine.fresh_s1 13, Engine.fresh_s2 13, Engine.fresh_winRead 13, Engine.fresh_wofs 13, Engine.fresh_cb 13,
    rfl, rfl, rfl⟩

end Sys2Proof.Machine
end

section
/-! PROOF. The legal words (spec 30_encoding R62, R64), and an illegal word at the block (R65, R163). -/

namespace Sys2Proof.Machine

/-! ### Words of a row -/

/-- A word is `c16 op m` exactly when its fields are `op`, 0 and `m` (R61). -/
theorem eq_c16_iff (w : CmdWord) (op : BitVec 4) (m : Byte) :
    w = c16 op m ↔ opField w = op ∧ rsvField w = 0 ∧ imm8Field w = m := by
  constructor
  · rintro rfl
    exact ⟨opField_append op 0 m, rsvField_append op 0 m, imm8Field_append op 0 m⟩
  · rintro ⟨rfl, hr, rfl⟩
    rw [c16, ← hr]
    exact word_fields w

/-- A mask `0xFF00` keeps the fields `op` and `rsv` and clears `imm8` (R64). -/
theorem and_0xFF00 (w : CmdWord) : w &&& 0xFF00 = opField w ++ rsvField w ++ (0 : Byte) := by
  conv_lhs => rw [word_fields w, show (0xFF00 : CmdWord) = BitVec.allOnes 4 ++ BitVec.allOnes 4 ++ 0#8 from rfl,
    BitVec.and_append, BitVec.and_append, BitVec.and_allOnes, BitVec.and_allOnes, BitVec.and_zero]
  rfl

/-- A word matches the row `op` under the mask `0xFF00` exactly when its `op` is the row's and its `rsv` is 0. -/
theorem and_0xFF00_eq_c16_iff (w : CmdWord) (op : BitVec 4) :
    w &&& 0xFF00 = c16 op 0 ↔ opField w = op ∧ rsvField w = 0 := by
  rw [eq_c16_iff, and_0xFF00]
  simp

/-! ### Which words decode -/

/-- The pairs `op`, `imm8` of the rows of R62: three rows with any operand byte, four with none. -/
def rowFields : Finset (BitVec 4 × Byte) := {2, 4, 5} ×ˢ Finset.univ ∪ {1, 3, 6, 7} ×ˢ {0}

theorem mem_rowFields (op : BitVec 4) (m : Byte) : (op, m) ∈ rowFields ↔
    (op = 2 ∨ op = 4 ∨ op = 5) ∨ (op = 1 ∨ op = 3 ∨ op = 6 ∨ op = 7) ∧ m = 0 := by
  simp only [rowFields, Finset.mem_union, Finset.mem_product, Finset.mem_insert, Finset.mem_singleton,
    Finset.mem_univ, and_true]

theorem card_bitVec_univ (n : Nat) : (Finset.univ : Finset (BitVec n)).card = 2 ^ n := by
  rw [Finset.card_univ, ← FinEnum.card_eq_fintypeCard, FinEnum.card_bitVec]

/-- Three rows of 256 words and four of one. -/
theorem card_rowFields : rowFields.card = 772 := by
  rw [rowFields, Finset.card_union_of_disjoint, Finset.card_product, Finset.card_product, card_bitVec_univ]
  · rfl
  · exact Finset.disjoint_product.2 (.inl (by decide))

theorem noOperand_ok_iff (w : CmdWord) (i : Instr) : (∃ j, noOperand w i = .ok j) ↔ imm8Field w = 0 := by
  unfold noOperand
  split
  · next h => simp [h]
  · next h => exact iff_of_false (by simp) h

/-- R69 decodes a word exactly when its `rsv` is 0 and its other fields are those of a row. -/
theorem decode_ok_iff (w : CmdWord) :
    (∃ i, decode w = .ok i) ↔ rsvField w = 0 ∧ (opField w, imm8Field w) ∈ rowFields := by
  rw [mem_rowFields]
  unfold decode
  split
  · next hr =>
    -- each branch of R69's match fixes `op` as a number
    split <;> simp_all [BitVec.toNat_eq, noOperand_ok_iff]
  · next hr => exact iff_of_false (by simp) fun h => hr h.1

theorem decode_error_iff (w : CmdWord) : (∃ e, decode w = .error e) ↔ ¬ ∃ i, decode w = .ok i := by
  cases decode w <;> simp

/-- R64's rows and masks, read as conditions on the fields. -/
theorem matches_row_iff (w : CmdWord) :
    (w &&& 0xFF00 = 0x2000 ∨ w &&& 0xFF00 = 0x4000 ∨ w &&& 0xFF00 = 0x5000 ∨
      w = 0x1000 ∨ w = 0x3000 ∨ w = 0x6000 ∨ w = 0x7000) ↔
    rsvField w = 0 ∧ (opField w, imm8Field w) ∈ rowFields := by
  rw [mem_rowFields, show (0x2000 : CmdWord) = c16 2 0 from rfl, show (0x4000 : CmdWord) = c16 4 0 from rfl,
    show (0x5000 : CmdWord) = c16 5 0 from rfl, show (0x1000 : CmdWord) = c16 1 0 from rfl,
    show (0x3000 : CmdWord) = c16 3 0 from rfl, show (0x6000 : CmdWord) = c16 6 0 from rfl,
    show (0x7000 : CmdWord) = c16 7 0 from rfl]
  simp only [and_0xFF00_eq_c16_iff]
  simp only [eq_c16_iff]
  by_cases hr : rsvField w = 0
  · by_cases hm : imm8Field w = 0 <;> simp only [hr, hm, and_true, and_false, true_and, or_false, or_assoc]
  · simp only [hr, and_false, false_and, or_false]

/-- R64's causes of illegality: a reserved `op`, a nonzero `rsv`, or an operand where the row has none. -/
theorem not_row_iff (w : CmdWord) :
    ¬ (rsvField w = 0 ∧ (opField w, imm8Field w) ∈ rowFields) ↔
    (opField w = 0 ∨ 8 ≤ (opField w).toNat ∨ rsvField w ≠ 0 ∨
      (imm8Field w ≠ 0 ∧ (opField w = 1 ∨ opField w = 3 ∨ opField w = 6 ∨ opField w = 7))) := by
  rw [mem_rowFields]
  bv_omega

theorem legal_iff (w : CmdWord) :
    CmdWord.legal w = true ↔ rsvField w = 0 ∧ (opField w, imm8Field w) ∈ rowFields := by
  rw [← matches_row_iff]
  simp [CmdWord.legal, CmdWord.hasByteOperand, CmdWord.hasNoOperand, or_assoc]

/-! ### How many words are legal -/

/-- The legal words are the words `c16 op m` of the rows' fields. -/
theorem legal_words_eq_image :
    (Finset.univ.filter fun w : CmdWord => CmdWord.legal w = true) = rowFields.image fun p => c16 p.1 p.2 := by
  ext w
  simp only [Finset.mem_filter, Finset.mem_univ, true_and, Finset.mem_image, Prod.exists, legal_iff,
    eq_comm (b := w), eq_c16_iff]
  constructor
  · rintro ⟨hr, hm⟩
    exact ⟨_, _, hm, rfl, hr, rfl⟩
  · rintro ⟨_, _, hm, rfl, hr, rfl⟩
    exact ⟨hr, hm⟩

theorem c16_injective : Function.Injective fun p : BitVec 4 × Byte => c16 p.1 p.2 := by
  rintro ⟨op, m⟩ ⟨op', m'⟩ h
  obtain ⟨hop, -, hm⟩ := (eq_c16_iff _ op' m').1 h
  exact Prod.ext ((opField_append op 0 m).symm.trans hop) ((imm8Field_append op 0 m).symm.trans hm)

theorem card_legal : (Finset.univ.filter fun w : CmdWord => CmdWord.legal w = true).card = 772 := by
  rw [legal_words_eq_image, Finset.card_image_of_injective _ c16_injective, card_rowFields]

theorem card_illegal : (Finset.univ.filter fun w : CmdWord => CmdWord.legal w = false).card = 64764 := by
  have compl : (Finset.univ.filter fun w : CmdWord => CmdWord.legal w = false) =
      (Finset.univ.filter fun w : CmdWord => CmdWord.legal w = true)ᶜ := by
    ext w
    simp only [Finset.mem_filter, Finset.mem_univ, true_and, Finset.mem_compl, Bool.not_eq_true]
  rw [compl, Finset.card_compl, card_legal, ← Finset.card_univ, card_bitVec_univ]
  rfl

/-- Settles O2: both the rows' masks (`matches_row_iff`) and the decoder (`decode_ok_iff`) ask for `rsv` 0 and for the
`op` and `imm8` of a row, and 3 * 256 + 4 pairs of `op` and `imm8` are those of a row. -/
theorem legalWordsAreTheTableRows : Obligations.LegalWordsAreTheTableRows := by
  unfold Obligations.LegalWordsAreTheTableRows
  refine ⟨fun w => ⟨?_, ?_, ?_⟩, card_legal, card_illegal⟩
  · rw [decode_ok_iff, matches_row_iff]
  · rw [decode_error_iff, decode_ok_iff, not_row_iff]
  · rw [legal_iff, decode_ok_iff]

/-! ### An illegal word at the block -/

/-- R163 for an illegal word: the response is {0x01, the word} (R66, R68); the engine and the host's actions stay. -/
theorem raiseFault_illegalCommand (s : State) (w : CmdWord) :
    s.raiseFault .illegalCommand (dataOfWord w) =
      { s with fault := true, cause := .illegalCommand, response := some ⟨0x01, w.setWidth 32⟩ } := rfl

/-- R65: at a block that is not faulted a word that decodes to no command raises ILLEGAL_COMMAND. -/
theorem execWord_of_illegal {s : State} {w : CmdWord} (hf : s.fault = false) (hw : ¬ ∃ i, decode w = .ok i) :
    execWord w s = .next (s.raiseFault .illegalCommand (dataOfWord w)) := by
  obtain ⟨e, he⟩ := (decode_error_iff w).2 hw
  simp [execWord, hf, he]

/-- Settles O12: an idle block executes the word, which is a fault entry; the `op` of 0x0000 is that of no row. -/
theorem illegalWordFaults : Obligations.IllegalWordFaults := by
  unfold Obligations.IllegalWordFaults
  constructor
  · intro s w hf hs hw
    rw [issue_of_idle w hs, execWord_of_illegal hf hw, raiseFault_illegalCommand]
  · exact (decode_error_iff 0x0000).1 ⟨.reservedOpcode, rfl⟩

end Sys2Proof.Machine
end

section
/-! PROOF. The construction commands (spec 40_construction R82, R83, R85). -/

namespace Sys2Proof.Machine

/-! ### The words of the rows with an operand -/

/-- R62: the operand byte is or-ed into the row's word. -/
theorem c16_eq_or (op : BitVec 4) (m : Byte) : c16 op m = c16 op 0 ||| m.setWidth 16 := by
  have low : m.setWidth 16 = 0#8 ++ m := BitVec.setWidth_eq_append (by decide)
  rw [low, c16, c16, BitVec.or_append]
  simp

/-! ### A construction -/

/-- R82, R83: a construction sets every field of the engine and answers {0x00, 0} (R66). -/
theorem respond_ok_fresh (s : State) (cb : ChunkBits) :
    (s.withEngine (Engine.fresh cb)).respond .ok false 0 =
      { s with
        engine := { s1 := 1984, s2 := 124992, window := Vector.replicate 64 0, wofs := 0, cb := cb }
        response := some ⟨0x00, 0⟩ } := rfl

theorem exec_init_of_healthy {s : State} (hf : s.fault = false) :
    exec .init s = .next ((s.withEngine (Engine.fresh 13)).respond .ok false 0) :=
  unlessFaulted_of_healthy _ hf

/-- Settles O16: INIT at a block that is not faulted constructs `FRESH(13)`. -/
theorem initConstructsDefaultEngine : Obligations.InitConstructsDefaultEngine := by
  unfold Obligations.InitConstructsDefaultEngine
  refine ⟨rfl, fun s hf => ?_⟩
  rw [exec_init_of_healthy hf, respond_ok_fresh]

/-! ### The range check of CONFIG -/

theorem outOfRange_iff (c : Byte) : outOfRange c = true ↔ 32 ≤ c.toNat := by
  simp [outOfRange]

/-- R83: what CFG stores of an accepted operand is its whole value. -/
theorem toNat_cfgField {c : Byte} (hc : c.toNat ≤ 31) : (cfgField c).toNat = c.toNat := by
  rw [cfgField, BitVec.extractLsb'_toNat]
  exact Nat.mod_eq_of_lt (by omega)

/-- R85: an operand in range constructs. -/
theorem exec_config_of_inRange {s : State} {c : Byte} (hf : s.fault = false) (hc : c.toNat ≤ 31) :
    exec (.config c) s = .next ((s.withEngine (Engine.fresh (cfgField c))).respond .ok false 0) := by
  have hr : ¬ outOfRange c = true := by rw [outOfRange_iff]; omega
  exact (unlessFaulted_of_healthy _ hf).trans (by rw [if_neg hr])

/-- R85: an operand out of range raises CONFIG_ERROR, and no engine is constructed. -/
theorem exec_config_of_outOfRange {s : State} {c : Byte} (hf : s.fault = false) (hc : 32 ≤ c.toNat) :
    exec (.config c) s = .next (s.raiseFault .configError (dataOfByte c)) :=
  (unlessFaulted_of_healthy _ hf).trans (by rw [if_pos ((outOfRange_iff c).2 hc)])

/-- R163 for CONFIG_ERROR: the response is {0x02, c} (R66, R68); the engine and the host's actions stay. -/
theorem raiseFault_configError (s : State) (c : Byte) :
    s.raiseFault .configError (dataOfByte c) =
      { s with fault := true, cause := .configError, response := some ⟨0x02, c.setWidth 32⟩ } := rfl

/-- Settles O17: CONFIG branches on its range check; in range, `cfgField` loses no bit of the operand. -/
theorem configConstructsOrFaults : Obligations.ConfigConstructsOrFaults := by
  unfold Obligations.ConfigConstructsOrFaults
  intro s c hf
  refine ⟨c16_eq_or 2 c, fun hc => ⟨cfgField c, toNat_cfgField hc, ?_⟩, fun hc => ?_⟩
  · rw [exec_config_of_inRange hf hc, respond_ok_fresh]
  · rw [exec_config_of_outOfRange hf hc, raiseFault_configError]

end Sys2Proof.Machine
end

section
/-! PROOF. The rolling-hash commands (spec 41_rolling_hash R100 to R104, R110, R111, R115). -/

namespace Sys2Proof.Machine

variable {W : Nat}

/-! ### The commands at a block that is not faulted -/

/-- An OK response without BOUNDARY has the status 0x00 (R66). -/
theorem respond_ok (s : State) (d : DataWord) :
    s.respond .ok false d = { s with response := some ⟨0x00, d⟩ } := rfl

theorem exec_reset_of_healthy {s : State} (hf : s.fault = false) :
    exec .reset s = .next ((s.withEngine (Engine.fresh s.engine.cb)).respond .ok false 0) :=
  unlessFaulted_of_healthy _ hf

theorem exec_roll_of_healthy {s : State} (b : Byte) (hf : s.fault = false) :
    exec (.roll b) s = .next ((s.withEngine (s.engine.roll b)).respond .ok false 0) :=
  unlessFaulted_of_healthy _ hf

theorem exec_digest_of_healthy {s : State} (hf : s.fault = false) :
    exec .digest s = .next (s.respond .ok false s.engine.digest) :=
  unlessFaulted_of_healthy _ hf

/-- Settles O18: RESET constructs `FRESH(cb)` with the block's own `cb`. -/
theorem resetRestoresFreshKeepingChunkBits : Obligations.ResetRestoresFreshKeepingChunkBits := by
  unfold Obligations.ResetRestoresFreshKeepingChunkBits
  refine ⟨rfl, fun s hf => ?_⟩
  rw [exec_reset_of_healthy hf, respond_ok_fresh]

/-! ### The sums of a roll as exact integers -/

theorem natCast_toNat_ofInt (i : Int) : ((BitVec.ofInt W i).toNat : Int) = i % 2 ^ W := by
  rw [BitVec.toNat_ofInt, Int.toNat_of_nonneg (Int.emod_nonneg i (by positivity))]
  simp

/-- R103 for `s1`. -/
theorem natCast_toNat_nextS1 (s1 : BitVec W) (b old : Byte) :
    ((nextS1 s1 b old).toNat : Int) = ((s1.toNat : Int) + b.toNat - old.toNat) % 2 ^ W := by
  rw [nextS1_eq_ofInt, natCast_toNat_ofInt]

/-- R103 for `s2`. -/
theorem natCast_toNat_nextS2 (s2 s1 : BitVec W) (old : Byte) :
    ((nextS2 s2 s1 old).toNat : Int) =
      ((s2.toNat : Int) + s1.toNat - 64 * (old.toNat + 31)) % 2 ^ W := by
  rw [nextS2_eq_ofInt, natCast_toNat_ofInt]

/-- Settles O19: the engine after ROLL is `Engine.roll`, whose sums are those of R103 with the old byte read at `wofs`. -/
theorem rollUpdatesAccumulatorsAndWindow : Obligations.RollUpdatesAccumulatorsAndWindow := by
  unfold Obligations.RollUpdatesAccumulatorsAndWindow
  intro s b hf
  refine ⟨c16_eq_or 4 b, s.engine.roll b, ?_, ?_, ?_, s.engine.roll_winRead b, ?_, s.engine.roll_cb b⟩
  · rw [exec_roll_of_healthy b hf, respond_ok, State.withEngine]
  · rw [Engine.roll_s1, natCast_toNat_nextS1]
  · rw [Engine.roll_s1, Engine.roll_s2, natCast_toNat_nextS2]
  · rw [Engine.roll_wofs, BitVec.toNat_add]
    rfl

/-! ### The digest as a number -/

/-- R110: the low half of `s1` is the digest's high half. -/
theorem Engine.toNat_digest (e : Engine W) :
    e.digest.toNat = e.s1.toNat % 65536 * 65536 + e.s2.toNat % 65536 := by
  rw [digest_eq_append, BitVec.toNat_append, ← Nat.shiftLeft_add_eq_or_of_lt (BitVec.isLt _), Nat.shiftLeft_eq]
  simp

/-- Settles O20: DIGEST answers `Engine.digest` and writes nothing but the response. -/
theorem digestReadsLowHalves : Obligations.DigestReadsLowHalves := by
  unfold Obligations.DigestReadsLowHalves
  refine ⟨rfl, fun s hf => ⟨s.engine.digest, ?_, s.engine.toNat_digest⟩⟩
  rw [exec_digest_of_healthy hf, respond_ok]

/-! ### Every word is answered -/

/-- The outcome is a next state with a response (R66, R162). -/
def Answers (o : Host.Outcome State Fault Refusal) : Prop :=
  ∃ t r, o = .next t ∧ t.response = some r

theorem answers_next {t : State} {r : Response} (h : t.response = some r) : Answers (.next t) :=
  ⟨t, r, rfl, h⟩

theorem unlessFaulted_answers {s t : State} {r : Response} (h : t.response = some r) :
    Answers (unlessFaulted s t) := by
  cases hf : s.fault with
  | true => rw [unlessFaulted_of_fault t hf]; exact answers_next s.answerFaulted_response
  | false => rw [unlessFaulted_of_healthy t hf]; exact answers_next h

/-- Each command gives one response, a CONFIG whether its operand is in range or not (R85). -/
theorem exec_answers (i : Instr) (s : State) : Answers (exec i s) := by
  cases i with
  | config c =>
    show Answers (execConfig c s)
    unfold execConfig
    split
    · exact unlessFaulted_answers (State.raiseFault_response ..)
    · exact unlessFaulted_answers (State.respond_response ..)
  | _ => exact unlessFaulted_answers (State.respond_response ..)

theorem execWord_answers (w : CmdWord) (s : State) : Answers (execWord w s) := by
  obtain ⟨-, h⟩ | ⟨-, -, h⟩ | ⟨-, i, -, h⟩ := execWord_cases w s <;> rw [h]
  · exact answers_next s.answerFaulted_response
  · exact answers_next (State.raiseFault_response ..)
  · exact exec_answers i s

/-- With no command outstanding a transaction succeeds and leaves none outstanding. -/
theorem transact_of_idle (w : CmdWord) {s : State} (hs : s.response = none) :
    ∃ t r, transact w s = some (t, r) ∧ t.response = none := by
  obtain ⟨t, r, h, hr⟩ := execWord_answers w s
  exact ⟨t.takeResponse, r, transact_of_execWord hs h hr, t.takeResponse_response⟩

/-- With no command outstanding every word of a sequence is answered, and none is outstanding at the end. -/
theorem transactAll_of_idle (ws : List CmdWord) {s : State} (hs : s.response = none) :
    ∃ t rs, transactAll ws s = some (t, rs) ∧ rs.length = ws.length ∧ t.response = none := by
  induction ws generalizing s with
  | nil => exact ⟨s, [], rfl, rfl, hs⟩
  | cons w ws ih =>
    obtain ⟨t, r, h, ht⟩ := transact_of_idle w hs
    obtain ⟨u, rs, hrs, hlen, hu⟩ := ih ht
    exact ⟨u, r :: rs, by simp [transactAll, h, hrs], by simp [hlen], hu⟩

/-! ### DIGEST changes nothing -/

theorem takeResponse_respond {s : State} (hs : s.response = none) (st : Status) (v : Bool) (d : DataWord) :
    (s.respond st v d).takeResponse = s := by
  rw [State.takeResponse, State.respond, ← hs]

/-- R111, and R164 at a faulted block: DIGEST answers by a response alone. -/
theorem execWord_digest (s : State) :
    ∃ st d, execWord (encode .digest) s = .next (s.respond st false d) := by
  have hd : decode (encode .digest) = .ok .digest := rfl
  obtain ⟨-, h⟩ | ⟨-, ⟨e, he⟩, -⟩ | ⟨hf, i, hi, h⟩ := execWord_cases (encode .digest) s
  · exact ⟨.faulted, dataOfCause s.cause, h⟩
  · cases hd.symm.trans he
  · cases hd.symm.trans hi
    exact ⟨.ok, s.engine.digest, h.trans (exec_digest_of_healthy hf)⟩

/-- Once its response is taken, a DIGEST has left the whole state as it was. -/
theorem transact_digest {s : State} (hs : s.response = none) :
    ∃ r, transact (encode .digest) s = some (s, r) := by
  obtain ⟨st, d, h⟩ := execWord_digest s
  refine ⟨⟨statusByte st false, d⟩, ?_⟩
  rw [transact_of_execWord hs h (State.respond_response ..), takeResponse_respond hs]

/-- A word that leaves the state as it was does so any number of times, with one answer. -/
theorem transactAll_replicate {w : CmdWord} {s : State} {r : Response} (h : transact w s = some (s, r)) (n : Nat) :
    transactAll (List.replicate n w) s = some (s, List.replicate n r) := by
  induction n with
  | zero => rfl
  | succ n ih => simp [List.replicate_succ, transactAll, h, ih]

/-- Settles O44: the words before the cut end in a state with none outstanding, which the DIGESTs leave as it was, so
the words after the cut run from the same state. -/
theorem digestDisturbsNothing : Obligations.DigestDisturbsNothing := by
  unfold Obligations.DigestDisturbsNothing
  intro s ws vs n hs
  obtain ⟨t, rs, hws, hlen, ht⟩ := transactAll_of_idle ws hs
  obtain ⟨d, hd⟩ := transact_digest ht
  obtain ⟨u, qs, hvs, -, -⟩ := transactAll_of_idle vs ht
  refine ⟨u, rs, qs, d, hlen, ?_, ?_⟩
  · simp [transactAll_append, hws, hvs]
  · simp [transactAll_append, hws, transactAll_replicate hd n, hvs]

end Sys2Proof.Machine
end

section
/-! PROOF. Boundary detection (spec 42_boundary R130 to R134, R145, R146, R149). -/

namespace Sys2Proof.Machine

/-! ### The boundary predicate -/

/-- R130: the mask of `c` is the number whose low `c` bits are 1. -/
theorem toNat_boundaryMask (c : ChunkBits) : (boundaryMask c).toNat = 2 ^ c.toNat - 1 := by
  have hlt : 2 ^ c.toNat < 2 ^ 32 := Nat.pow_lt_pow_right (by decide) c.isLt
  have hone : (1#32).toNat <<< c.toNat = 2 ^ c.toNat := Nat.one_shiftLeft _
  have hpow : (1#32 <<< c.toNat).toNat = 2 ^ c.toNat := by
    rw [BitVec.toNat_shiftLeft, hone, Nat.mod_eq_of_lt hlt]
  have hle : 1#32 ≤ 1#32 <<< c.toNat := by
    rw [BitVec.le_def, hpow]
    exact Nat.one_le_two_pow
  exact (BitVec.toNat_sub_of_le hle).trans (by rw [hpow]; rfl)

theorem getLsbD_boundaryMask (c : ChunkBits) (i : Nat) : (boundaryMask c).getLsbD i = decide (i < c.toNat) := by
  rw [← BitVec.testBit_toNat, toNat_boundaryMask, Nat.testBit_two_pow_sub_one]

/-- R130: bit by bit, `d & mask = mask` asks for a 1 wherever the mask has one. -/
theorem boundary_iff (d : DataWord) (c : ChunkBits) :
    boundary d c = true ↔ ∀ i < c.toNat, d.getLsbD i = true := by
  rw [boundary, beq_iff_eq, BitVec.eq_of_getLsbD_eq_iff]
  simp only [BitVec.getLsbD_and, getLsbD_boundaryMask]
  constructor
  · intro h i hi
    simpa [hi] using h i (hi.trans c.isLt)
  · intro h i _
    by_cases hi : i < c.toNat
    · simp [h i hi]
    · simp [hi]

/-! ### SCAN -/

/-- An OK response with BOUNDARY has the status 0x80 (R66). -/
theorem respond_ok_boundary (s : State) (d : DataWord) :
    s.respond .ok true d = { s with response := some ⟨0x80, d⟩ } := rfl

theorem exec_scan_of_healthy {s : State} (b : Byte) (hf : s.fault = false) :
    exec (.scan b) s =
      .next ((s.withEngine (s.engine.scanned b)).respond .ok (s.engine.hit b) (s.engine.tested b)) :=
  unlessFaulted_of_healthy _ hf

/-- R130 at the tested digest: SCAN looks at the low `cb` bits of the digest after the roll. -/
theorem Engine.hit_iff {W : Nat} (b : Byte) (e : Engine W) :
    e.hit b = true ↔ ∀ i < e.cb.toNat, (e.roll b).digest.getLsbD i = true :=
  boundary_iff _ _

/-- R132, R134: a SCAN that finds a boundary. -/
theorem exec_scan_of_hit {s : State} {b : Byte} (hf : s.fault = false) (hb : s.engine.hit b = true) :
    exec (.scan b) s =
      .next ((s.withEngine (Engine.fresh s.engine.cb)).respond .ok true (s.engine.roll b).digest) := by
  rw [exec_scan_of_healthy b hf, Engine.scanned_of_hit hb, hb, Engine.tested]

/-- R132: a SCAN that finds none. -/
theorem exec_scan_of_miss {s : State} {b : Byte} (hf : s.fault = false) (hb : s.engine.hit b = false) :
    exec (.scan b) s =
      .next ((s.withEngine (s.engine.roll b)).respond .ok false (s.engine.roll b).digest) := by
  rw [exec_scan_of_healthy b hf, Engine.scanned_of_miss hb, hb, Engine.tested]

/-- Settles O21: ROLL and DIGEST give the engine and the digest SCAN tests, and SCAN branches on the bits of
`Engine.hit_iff`. -/
theorem scanRollsTestsAndResets : Obligations.ScanRollsTestsAndResets := by
  unfold Obligations.ScanRollsTestsAndResets
  intro s b hf
  refine ⟨c16_eq_or 5 b, s.engine.roll b, (s.engine.roll b).digest, ?_, ?_, fun hones => ?_, fun hzero => ?_⟩
  · rw [exec_roll_of_healthy b hf, respond_ok, State.withEngine]
  · exact exec_digest_of_healthy (s := { s with engine := s.engine.roll b }) hf
  · rw [exec_scan_of_hit hf ((Engine.hit_iff b s.engine).2 hones), respond_ok_boundary]
    rfl
  · have hmiss : s.engine.hit b = false := Bool.eq_false_iff.2 (mt (Engine.hit_iff b s.engine).1 hzero)
    rw [exec_scan_of_miss hf hmiss, respond_ok, State.withEngine]

/-- Settles O25: `boundary_iff`, the masks' values, and SCAN's response read field by field. -/
theorem boundaryMeansLowBitsAllOne : Obligations.BoundaryMeansLowBitsAllOne := by
  unfold Obligations.BoundaryMeansLowBitsAllOne
  refine ⟨boundary_iff, toNat_boundaryMask, by decide, by decide, fun s b hf => ?_⟩
  exact ⟨_, _, exec_scan_of_healthy b hf, State.respond_response .., rfl, boundaryField_statusByte ..⟩

/-! ### The run of 1 bits -/

section
variable {d : DataWord} {k : Nat}

theorem onesFrom_of_clear (h : d.getLsbD k = false) (n : Nat) : Safety.onesFrom d k n = 0 := by
  cases n <;> simp [Safety.onesFrom, h]

theorem onesFrom_of_set (h : d.getLsbD k = true) (n : Nat) :
    Safety.onesFrom d k (n + 1) = Safety.onesFrom d (k + 1) n + 1 := by
  simp [Safety.onesFrom, h]

end

/-- The run from bit `k` up depends on the bits from `k` up only. -/
theorem onesFrom_congr {d d' : DataWord} {k : Nat} (h : ∀ i, k ≤ i → d.getLsbD i = d'.getLsbD i) (n : Nat) :
    Safety.onesFrom d k n = Safety.onesFrom d' k n := by
  induction n generalizing k with
  | zero => rfl
  | succ n ih => simp only [Safety.onesFrom, h k le_rfl, ih fun i hi => h i (Nat.le_of_succ_le hi)]

/-- A run ends at bit 32 at the latest, so fuel that reaches bit 32 is enough. -/
theorem onesFrom_eq_of_reach (d : DataWord) {k n m : Nat} (hn : 32 ≤ k + n) (hm : 32 ≤ k + m) :
    Safety.onesFrom d k n = Safety.onesFrom d k m := by
  induction n generalizing k m with
  | zero => exact (onesFrom_of_clear (BitVec.getLsbD_of_ge d k hn) m).symm
  | succ n ih =>
    cases hk : d.getLsbD k with
    | false => rw [onesFrom_of_clear hk, onesFrom_of_clear hk]
    | true =>
      cases m with
      | zero => exact absurd (hk.symm.trans (BitVec.getLsbD_of_ge d k hm)) (by decide)
      | succ m => rw [onesFrom_of_set hk, onesFrom_of_set hk, ih (m := m) (by omega) (by omega)]

/-! ### The strength count -/

/-- R145, R146: the loop shifts before it tests, so started at bit `k` it counts the run from bit `k + 1` up. The
6-bit counter does not wrap while count and fuel stay below 64. -/
theorem toNat_countLoop (d : DataWord) (k : Nat) {n : Nat} {bits : BitVec 6} (h : bits.toNat + n < 64) :
    (countLoop n (d >>> k) bits).toNat = bits.toNat + Safety.onesFrom d (k + 1) n := by
  induction n generalizing k bits with
  | zero => rfl
  | succ n ih =>
    have htest : (d >>> k >>> 1).getLsbD 0 = d.getLsbD (k + 1) := by simp
    have hinc : (bits + 1).toNat = bits.toNat + 1 := by bv_omega
    rw [countLoop, htest]
    cases hk : d.getLsbD (k + 1) with
    | false => simp [onesFrom_of_clear hk]
    | true =>
      rw [if_pos rfl, onesFrom_of_set hk, ← BitVec.shiftRight_add, ih (k + 1) (by omega)]
      omega

/-- R145: `c` plus the run of 1 bits from bit `c + 1` up. -/
theorem toNat_countBitsFn (d : DataWord) (c : ChunkBits) :
    (countBitsFn d c).toNat = c.toNat + Safety.onesFrom d (c.toNat + 1) 32 := by
  have hc : (c.setWidth 6).toNat = c.toNat := BitVec.toNat_setWidth_of_le (by decide)
  rw [countBitsFn, toNat_countLoop d c.toNat (by omega), hc]

theorem exec_countbits_of_healthy {s : State} (hf : s.fault = false) :
    exec .countbits s = .next (s.respond .ok false (dataOfCount s.engine.strength)) :=
  unlessFaulted_of_healthy _ hf

/-- Settles O22: COUNTBITS answers `toNat_countBitsFn`'s sum, whose run ends below bit 32. -/
theorem countbitsReportsRunAboveSkippedBit : Obligations.CountbitsReportsRunAboveSkippedBit := by
  unfold Obligations.CountbitsReportsRunAboveSkippedBit
  refine ⟨rfl, fun s hf => ⟨dataOfCount s.engine.strength, ?_, ?_⟩⟩
  · rw [exec_countbits_of_healthy hf, respond_ok]
  · rw [dataOfCount, BitVec.toNat_setWidth_of_le (by decide), Engine.strength, toNat_countBitsFn,
      onesFrom_eq_of_reach (m := 31 - s.engine.cb.toNat) _ (by omega) (by omega)]

/-- Settles O27: the run that is counted starts at bit `c + 1`; it is empty when that bit is 0, not empty when it is 1,
and does not depend on the bits below. -/
theorem countSkipsBitAboveBoundary : Obligations.CountSkipsBitAboveBoundary := by
  unfold Obligations.CountSkipsBitAboveBoundary
  refine ⟨fun d c => ⟨fun hclear => ?_, fun hset => ?_⟩, fun d d' c heq => BitVec.eq_of_toNat_eq ?_⟩
  · rw [toNat_countBitsFn, onesFrom_of_clear hclear, Nat.add_zero]
  · rw [toNat_countBitsFn, onesFrom_of_set hset]
    omega
  · rw [toNat_countBitsFn, toNat_countBitsFn, onesFrom_congr heq]

end Sys2Proof.Machine
end

section
/-! PROOF. The STATUS of a response and the faulted block (spec 60_exceptions R164, R166). -/

namespace Sys2Proof.Machine

/-! ### A faulted block -/

/-- R164: a faulted block does not decode the word. -/
theorem execWord_of_fault (w : CmdWord) {s : State} (hf : s.fault = true) :
    execWord w s = .next s.answerFaulted := by
  rw [execWord, if_pos hf]

/-- R164: the answer is {0x03, CAUSE} (R66, R68), and nothing but the response is written. -/
theorem answerFaulted_eq (s : State) :
    s.answerFaulted = { s with response := some ⟨0x03, (causeCode s.cause).setWidth 32⟩ } := rfl

/-- Settles O13: a presented word is answered by `answerFaulted`, and of the other steps only power-on writes FAULT,
CAUSE or the engine. -/
theorem faultIsStickyUntilPowerOn : Obligations.FaultIsStickyUntilPowerOn := by
  unfold Obligations.FaultIsStickyUntilPowerOn
  refine ⟨fun s w hf hs => ?_, fun s t hf h => ?_⟩
  · rw [issue_of_idle w hs, execWord_of_fault w hf, answerFaulted_eq]
  · obtain ⟨-, rfl⟩ | ⟨rest, -, rfl⟩ | ⟨rest, hi, rfl⟩ | ⟨w, rest, -, -, hw⟩ := stepPort_next_cases h
    · exact .inr ⟨hf, rfl, rfl⟩
    · exact .inr ⟨hf, rfl, rfl⟩
    · exact .inl ⟨rest, hi, rfl, rfl⟩
    · cases (execWord_of_fault (s := { s with inputs := rest }) w hf).symm.trans hw
      exact .inr ⟨hf, rfl, rfl⟩

/-! ### The STATUS of a response -/

/-- The outcome is a next state with a response of STATUS `st` (R66). -/
def AnswersWith (st : Status) (o : Host.Outcome State Fault Refusal) : Prop :=
  ∃ t r, o = .next t ∧ t.response = some r ∧ statusField r = statusCode st

theorem answersWith_respond {o : Host.Outcome State Fault Refusal} {s : State} {st : Status} {v : Bool} {d : DataWord}
    (h : o = .next (s.respond st v d)) : AnswersWith st o :=
  ⟨_, _, h, State.respond_response .., statusField_statusByte ..⟩

/-- R163: a fault entry is reported with the status of its cause. -/
theorem answersWith_raiseFault {o : Host.Outcome State Fault Refusal} {s : State} {c : Cause} {d : DataWord}
    (h : o = .next (s.raiseFault c d)) : AnswersWith (statusOfCause c) o :=
  answersWith_respond h

/-- R63, R85: the block's one check of an operand is the range of CONFIG's. -/
theorem accepted_iff (i : Instr) : i.accepted = true ↔ ∀ c, i = .config c → c.toNat ≤ 31 := by
  cases i with
  | config c => simp [Instr.accepted, Nat.lt_succ_iff]
  | _ => simp [Instr.accepted]

theorem not_accepted_iff (i : Instr) : ¬ i.accepted = true ↔ ∃ c, i = .config c ∧ 32 ≤ c.toNat := by
  rw [accepted_iff]
  push Not
  rfl

/-- R67, R86: a command whose operand the block accepts executes. -/
theorem exec_ok_of_accepted {i : Instr} {s : State} (hf : s.fault = false) (hi : i.accepted = true) :
    AnswersWith .ok (exec i s) := by
  cases i with
  | init => exact answersWith_respond (exec_init_of_healthy hf)
  | config c => exact answersWith_respond (exec_config_of_inRange hf ((accepted_iff _).1 hi c rfl))
  | reset => exact answersWith_respond (exec_reset_of_healthy hf)
  | roll b => exact answersWith_respond (exec_roll_of_healthy b hf)
  | scan b => exact answersWith_respond (exec_scan_of_healthy b hf)
  | digest => exact answersWith_respond (exec_digest_of_healthy hf)
  | countbits => exact answersWith_respond (exec_countbits_of_healthy hf)

/-- R166's priority: the STATUS of the answer to a word, with the condition each status takes. -/
theorem execWord_status_cases (w : CmdWord) (s : State) :
    (s.fault = true ∧ AnswersWith .faulted (execWord w s)) ∨
    (s.fault = false ∧ (∃ e, decode w = .error e) ∧ AnswersWith .illegalCommand (execWord w s)) ∨
    (s.fault = false ∧ (∃ c, decode w = .ok (.config c) ∧ 32 ≤ c.toNat) ∧ AnswersWith .configError (execWord w s)) ∨
    (s.fault = false ∧ (∃ i, decode w = .ok i ∧ i.accepted = true) ∧ AnswersWith .ok (execWord w s)) := by
  obtain ⟨hf, h⟩ | ⟨hf, hd, h⟩ | ⟨hf, i, hd, h⟩ := execWord_cases w s
  · exact .inl ⟨hf, answersWith_respond h⟩
  · exact .inr (.inl ⟨hf, hd, answersWith_raiseFault h⟩)
  · by_cases hi : i.accepted = true
    · exact .inr (.inr (.inr ⟨hf, ⟨i, hd, hi⟩, h ▸ exec_ok_of_accepted hf hi⟩))
    · obtain ⟨c, rfl, hc⟩ := (not_accepted_iff i).1 hi
      have hx := h.trans (exec_config_of_outOfRange hf hc)
      exact .inr (.inr (.inl ⟨hf, ⟨c, hd, hc⟩, answersWith_raiseFault hx⟩))

/-- Settles O8: the four conditions of `execWord_status_cases` exclude each other, and so do the status codes. -/
theorem statusSaysWhatHappened : Obligations.StatusSaysWhatHappened := by
  unfold Obligations.StatusSaysWhatHappened
  intro s w hs
  simp only [issue_of_idle w hs, ← accepted_iff]
  obtain ⟨hf, t, r, h, hr, hst⟩ | ⟨hf, ⟨e, hd⟩, t, r, h, hr, hst⟩ | ⟨hf, ⟨c, hd, hc⟩, t, r, h, hr, hst⟩ |
    ⟨hf, ⟨i, hd, hi⟩, t, r, h, hr, hst⟩ := execWord_status_cases w s <;>
    refine ⟨t, r, h, hr, ?_⟩ <;> rw [hst]
  · simp [statusCode, hf]
  · simp [statusCode, hf, hd]
  · have hn : ¬ (Instr.config c).accepted = true := (not_accepted_iff _).2 ⟨c, rfl, hc⟩
    simp [statusCode, hf, hd, hc, hn]
  · have hn : ¬ ∃ c, i = .config c ∧ 32 ≤ c.toNat := fun h => (not_accepted_iff i).2 h hi
    simpa [statusCode, hf, hd, hi] using hn

end Sys2Proof.Machine
end

section
/-! PROOF. Decoding and encoding (spec 30_encoding R61, R62, R69, R71). -/

namespace Sys2Proof.Machine

@[simp] theorem opField_c16 (op : BitVec 4) (m : Byte) : opField (c16 op m) = op := opField_append op 0 m
@[simp] theorem rsvField_c16 (op : BitVec 4) (m : Byte) : rsvField (c16 op m) = 0 := rsvField_append op 0 m
@[simp] theorem imm8Field_c16 (op : BitVec 4) (m : Byte) : imm8Field (c16 op m) = m := imm8Field_append op 0 m

/-- R69 reads back the fields R71 writes: each command's row has its own `op`. -/
theorem decode_encode (i : Instr) : decode (encode i) = .ok i := by
  cases i <;> simp [decode, noOperand, encode]

theorem noOperand_eq_ok {w : CmdWord} {i j : Instr} (h : noOperand w i = .ok j) : imm8Field w = 0 ∧ i = j := by
  unfold noOperand at h
  split at h
  · next h0 => exact ⟨h0, by cases h; rfl⟩
  · cases h

/-- A row of R62 fixes the word of its command: the row's `op`, `rsv` 0 and the operand. -/
theorem encode_of_decode {w : CmdWord} {i : Instr} (h : decode w = .ok i) : encode i = w := by
  have row {op : BitVec 4} {m : Byte} (hr : rsvField w = 0) (hop : (opField w).toNat = op.toNat)
      (hm : imm8Field w = m) : c16 op m = w :=
    ((eq_c16_iff w op m).2 ⟨BitVec.eq_of_toNat_eq hop, hr, hm⟩).symm
  unfold decode at h
  split at h
  · next hr =>
    split at h
    case h_1 hop => obtain ⟨hm, rfl⟩ := noOperand_eq_ok h; exact row hr hop hm
    case h_2 hop => cases h; exact row hr hop rfl
    case h_3 hop => obtain ⟨hm, rfl⟩ := noOperand_eq_ok h; exact row hr hop hm
    case h_4 hop => cases h; exact row hr hop rfl
    case h_5 hop => cases h; exact row hr hop rfl
    case h_6 hop => obtain ⟨hm, rfl⟩ := noOperand_eq_ok h; exact row hr hop hm
    case h_7 hop => obtain ⟨hm, rfl⟩ := noOperand_eq_ok h; exact row hr hop hm
    case h_8 => cases h
  · cases h

/-- Settles O1: `decode_encode` one way, `encode_of_decode` the other. -/
theorem decodeEncodeAgree : Obligations.DecodeEncodeAgree := by
  unfold Obligations.DecodeEncodeAgree
  intro i w
  constructor
  · rintro rfl
    exact decode_encode i
  · exact encode_of_decode

/-- Settles O3: each word of a row is the row's encoding, and the decoder computes on the three others. -/
theorem decodesWordsOfEachRow : Obligations.DecodesWordsOfEachRow := by
  unfold Obligations.DecodesWordsOfEachRow
  exact ⟨decode_encode .init, decode_encode (.config 40), decode_encode .reset, decode_encode (.roll 0x41),
    decode_encode (.scan 0xFF), decode_encode .digest, decode_encode .countbits, rfl, rfl, rfl⟩

end Sys2Proof.Machine
end

section
/-! PROOF. What a word does to the block, said once for all commands (spec 30_encoding R66, 40_construction R85, R86,
60_exceptions R163, R164). -/

namespace Sys2Proof.Machine

variable {W : Nat}

/-! ### An accepted command -/

/-- The engine after the command, its operand accepted (R82, R83, R100, R110, R115, R132, R145). -/
def effect : Instr → Engine W → Engine W
  | .init, _ => Engine.fresh 13
  | .config c, _ => Engine.fresh (cfgField c)
  | .reset, e => Engine.fresh e.cb
  | .roll b, e => e.roll b
  | .scan b, e => e.scanned b
  | .digest, e => e
  | .countbits, e => e

/-- BOUNDARY of the command's response (R66): only a SCAN sets it. -/
def answerBoundary : Instr → Engine W → Bool
  | .scan b, e => e.hit b
  | _, _ => false

/-- The data of the command's response (R68). -/
def answerData : Instr → Engine W → DataWord
  | .scan b, e => e.tested b
  | .digest, e => e.digest
  | .countbits, e => dataOfCount e.strength
  | _, _ => 0

/-- A block that executes the command: the engine changes and the answer has STATUS OK. -/
def State.complete (i : Instr) (s : State) : State :=
  (s.withEngine (effect i s.engine)).respond .ok (answerBoundary i s.engine) (answerData i s.engine)

@[simp] theorem State.complete_engine (i : Instr) (s : State) : (s.complete i).engine = effect i s.engine := rfl
@[simp] theorem State.complete_fault (i : Instr) (s : State) : (s.complete i).fault = s.fault := rfl
@[simp] theorem State.complete_cause (i : Instr) (s : State) : (s.complete i).cause = s.cause := rfl
@[simp] theorem State.complete_inputs (i : Instr) (s : State) : (s.complete i).inputs = s.inputs := rfl
@[simp] theorem State.complete_response (i : Instr) (s : State) :
    (s.complete i).response =
      some ⟨statusByte .ok (answerBoundary i s.engine), answerData i s.engine⟩ := rfl

/-- R86: at a block that is not faulted an accepted command completes. -/
theorem exec_of_accepted {i : Instr} {s : State} (hf : s.fault = false) (hi : i.accepted = true) :
    exec i s = .next (s.complete i) := by
  cases i with
  | init => exact exec_init_of_healthy hf
  | config c => exact exec_config_of_inRange hf ((accepted_iff _).1 hi c rfl)
  | reset => exact exec_reset_of_healthy hf
  | roll b => exact exec_roll_of_healthy b hf
  | scan b => exact exec_scan_of_healthy b hf
  | digest => exact exec_digest_of_healthy hf
  | countbits => exact exec_countbits_of_healthy hf

/-- Log entry 11: the meaning of every command at a faulted block is R164's answer. -/
theorem exec_of_fault (i : Instr) {s : State} (hf : s.fault = true) : exec i s = .next s.answerFaulted := by
  cases i <;> exact unlessFaulted_of_fault _ hf

/-- Settles O14: `exec_of_fault`, with the answer written out. -/
theorem meaningsRespectTheFault : Obligations.MeaningsRespectTheFault := by
  unfold Obligations.MeaningsRespectTheFault
  intro s i hf
  rw [exec_of_fault i hf, answerFaulted_eq]

/-! ### Everything a command, and a word, can do -/

/-- A command is answered FAULTED, faults as a CONFIG out of range, or completes. -/
theorem exec_cases (i : Instr) (s : State) :
    (s.fault = true ∧ exec i s = .next s.answerFaulted) ∨
    (s.fault = false ∧ ∃ c, i = .config c ∧ 32 ≤ c.toNat ∧
      exec i s = .next (s.raiseFault .configError (dataOfByte c))) ∨
    (s.fault = false ∧ i.accepted = true ∧ exec i s = .next (s.complete i)) := by
  cases hf : s.fault with
  | true => exact .inl ⟨rfl, exec_of_fault i hf⟩
  | false =>
    by_cases hi : i.accepted = true
    · exact .inr (.inr ⟨rfl, hi, exec_of_accepted hf hi⟩)
    · obtain ⟨c, rfl, hc⟩ := (not_accepted_iff i).1 hi
      exact .inr (.inl ⟨rfl, c, rfl, hc, exec_config_of_outOfRange hf hc⟩)

/-- R166's priority, with the next state of each case. -/
theorem execWord_next_cases (w : CmdWord) (s : State) :
    (s.fault = true ∧ execWord w s = .next s.answerFaulted) ∨
    (s.fault = false ∧ (¬ ∃ i, decode w = .ok i) ∧
      execWord w s = .next (s.raiseFault .illegalCommand (dataOfWord w))) ∨
    (s.fault = false ∧ ∃ c, decode w = .ok (.config c) ∧ 32 ≤ c.toNat ∧
      execWord w s = .next (s.raiseFault .configError (dataOfByte c))) ∨
    (s.fault = false ∧ ∃ i, decode w = .ok i ∧ i.accepted = true ∧ execWord w s = .next (s.complete i)) := by
  obtain ⟨hf, h⟩ | ⟨hf, hd, h⟩ | ⟨hf, i, hd, h⟩ := execWord_cases w s
  · exact .inl ⟨hf, h⟩
  · exact .inr (.inl ⟨hf, (decode_error_iff w).1 hd, h⟩)
  · obtain ⟨hf', -⟩ | ⟨-, c, rfl, hc, hx⟩ | ⟨-, hi, hx⟩ := exec_cases i s
    · cases hf.symm.trans hf'
    · exact .inr (.inr (.inl ⟨hf, c, hd, hc, h.trans hx⟩))
    · exact .inr (.inr (.inr ⟨hf, i, hd, hi, h.trans hx⟩))

/-- R35: the host's later actions are not the block's to change. -/
theorem execWord_inputs {w : CmdWord} {s t : State} (h : execWord w s = .next t) : t.inputs = s.inputs := by
  obtain ⟨-, hx⟩ | ⟨-, -, hx⟩ | ⟨-, c, -, -, hx⟩ | ⟨-, i, -, -, hx⟩ := execWord_next_cases w s <;>
    · cases hx.symm.trans h
      rfl

/-! ### The frame of the commands -/

theorem effect_cb {i : Instr} (hinit : i ≠ .init) (hconf : ∀ c, i ≠ .config c) (e : Engine W) :
    (effect i e).cb = e.cb := by
  cases i with
  | init => exact absurd rfl hinit
  | config c => exact absurd rfl (hconf c)
  | reset => exact Engine.fresh_cb e.cb
  | roll b => exact e.roll_cb b
  | scan b => exact e.scanned_cb b
  | digest => rfl
  | countbits => rfl

/-- R101: a roll, by ROLL or by a SCAN that finds no boundary, writes no slot but `wofs`. -/
theorem effect_winRead {i : Instr} {b : Byte} {e : Engine W} {k : Slot}
    (hi : i = .roll b ∨ (i = .scan b ∧ e.hit b = false)) (hk : k ≠ e.wofs) :
    (effect i e).winRead k = e.winRead k := by
  have hroll : (e.roll b).winRead k = e.winRead k := by rw [Engine.roll_winRead, if_neg hk]
  obtain rfl | ⟨rfl, hmiss⟩ := hi
  · exact hroll
  · exact (congrArg (Engine.winRead · k) (Engine.scanned_of_miss hmiss)).trans hroll

/-- Settles O23: a faulted answer and a fault entry write no engine, and a command that completes writes the engine
`effect` gives. -/
theorem commandsFrame : Obligations.CommandsFrame := by
  unfold Obligations.CommandsFrame
  intro s t i h
  obtain ⟨-, hx⟩ | ⟨-, c, rfl, hc, hx⟩ | ⟨-, -, hx⟩ := exec_cases i s <;> cases hx.symm.trans h
  · exact ⟨rfl, fun _ => ⟨rfl, rfl⟩, fun _ => rfl, fun _ => rfl, fun _ _ _ _ => rfl⟩
  · refine ⟨rfl, fun hle => ?_, fun _ => rfl, fun _ => rfl, fun _ _ _ _ => rfl⟩
    have := hle c rfl
    omega
  · refine ⟨rfl, fun _ => ⟨rfl, rfl⟩, fun ⟨hinit, hconf⟩ => effect_cb hinit hconf s.engine, ?_,
      fun b k hi hk => effect_winRead hi hk⟩
    rintro (rfl | rfl) <;> rfl

end Sys2Proof.Machine
end

section
/-! PROOF. The port and the step (spec 60_exceptions R160 to R166, 70_reset R190, R194). -/

namespace Sys2Proof.Machine

/-! ### A step performs the host's next action -/

section
variable {s : State} {rest : List HostAction}

theorem step_of_no_action (h : s.inputs = []) : step s = .next s := by
  rw [step, stepPort, h]

theorem step_of_action {a : HostAction} (h : s.inputs = a :: rest) : step s = perform a { s with inputs := rest } := by
  rw [step, stepPort, h]

theorem step_of_take (h : s.inputs = .take :: rest) : step s = .next { s with inputs := rest, response := none } :=
  step_of_action h

theorem step_of_powerOn (h : s.inputs = .powerOn :: rest) : step s = .next { State.reset with inputs := rest } :=
  step_of_action h

theorem step_of_present {w : CmdWord} (h : s.inputs = .present w :: rest) :
    step s = issue w { s with inputs := rest } :=
  step_of_action h

/-- R194: with no command outstanding the word runs. -/
theorem step_of_present_idle {w : CmdWord} (h : s.inputs = .present w :: rest) (hr : s.response = none) :
    step s = execWord w { s with inputs := rest } :=
  (step_of_present h).trans (issue_of_idle w hr)

end

/-- Settles O5: the three clauses are the rules of `step` above. -/
theorem stepPerformsNextHostAction : Obligations.StepPerformsNextHostAction := by
  unfold Obligations.StepPerformsNextHostAction
  exact fun s => ⟨step_of_no_action, fun _ => step_of_take, fun _ _ => step_of_present⟩

/-- Both guard on FAULT: the port before it decodes (R164), and the meaning itself (log entry 11). -/
theorem execWord_of_decode {w : CmdWord} {i : Instr} (h : decode w = .ok i) (s : State) : execWord w s = exec i s := by
  obtain ⟨hf, hx⟩ | ⟨-, ⟨e, he⟩, -⟩ | ⟨-, j, hj, hx⟩ := execWord_cases w s
  · rw [hx, exec_of_fault i hf]
  · cases h.symm.trans he
  · cases h.symm.trans hj
    exact hx

/-- Settles O4: an idle block executes the presented word, and `withFetchWord 16` presents the whole word. -/
theorem stepRunsDecodedCommand : Obligations.StepRunsDecodedCommand := by
  unfold Obligations.StepRunsDecodedCommand
  intro s w i hd
  refine ⟨fun rest hi hr => ?_, ?_⟩
  · rw [step_of_present_idle hi hr, execWord_of_decode hd]
  · have hw : BitVec.ofNat 16 (w.toNat % 2 ^ 16) = w := by
      rw [Nat.mod_eq_of_lt w.isLt, BitVec.ofNat_toNat, BitVec.setWidth_eq]
    rw [State.withFetchWord, presentTableWord, hw, presentNext, step_of_present_idle rfl rfl, execWord_of_decode hd]

/-- Settles O10: the next state is the reset state with the host's later actions, and R34 gives its registers. -/
theorem powerOnRestoresEveryRegister : Obligations.PowerOnRestoresEveryRegister := by
  unfold Obligations.PowerOnRestoresEveryRegister
  intro s rest hi
  obtain ⟨hs1, hs2, hwin, hwofs, hcb, hfault, hcause, -⟩ := resetStateIsFreshDefault
  exact ⟨_, step_of_powerOn hi, hs1, hs2, hwin, hwofs, hcb, hfault, hcause, rfl, rfl,
    fun hrest => step_of_no_action hrest⟩

/-- R194: `issue` refuses exactly while a response is untaken; without one every word is answered. -/
theorem step_refused_iff (s : State) (x : Refusal) :
    step s = .refused x ↔
      x = .commandOutstanding ∧ ∃ w rest r, s.inputs = .present w :: rest ∧ s.response = some r := by
  constructor
  · intro h
    cases hi : s.inputs with
    | nil => cases (step_of_no_action hi).symm.trans h
    | cons a rest =>
      cases a with
      | take => cases (step_of_take hi).symm.trans h
      | powerOn => cases (step_of_powerOn hi).symm.trans h
      | present w =>
        cases hr : s.response with
        | none =>
          obtain ⟨t, -, ht, -⟩ := execWord_answers w { s with inputs := rest }
          cases (ht.symm.trans (step_of_present_idle hi hr).symm).trans h
        | some r =>
          rw [step_of_present hi, issue, hr] at h
          cases h
          exact ⟨rfl, w, rest, r, rfl, rfl⟩
  · rintro ⟨rfl, w, rest, r, hi, hr⟩
    rw [step_of_present hi, issue, hr]

/-- Settles O9: `step_refused_iff`. -/
theorem refusesOnlyBrokenHandshake : Obligations.RefusesOnlyBrokenHandshake := by
  unfold Obligations.RefusesOnlyBrokenHandshake
  exact step_refused_iff

/-- Settles O7: each case of `execWord_next_cases` has a response made by `statusByte`, and only a SCAN that completes
sets its BOUNDARY. -/
theorem everyWordGetsOneResponse : Obligations.EveryWordGetsOneResponse := by
  unfold Obligations.EveryWordGetsOneResponse
  intro s w hs
  rw [issue_of_idle w hs]
  obtain ⟨-, h⟩ | ⟨-, -, h⟩ | ⟨-, c, -, -, h⟩ | ⟨-, i, hd, -, h⟩ := execWord_next_cases w s
  · exact ⟨_, _, h, rfl, rfl, reservedField_statusByte .., by simp [statusCode]⟩
  · exact ⟨_, _, h, rfl, rfl, reservedField_statusByte .., by simp [statusCode, statusOfCause]⟩
  · exact ⟨_, _, h, rfl, rfl, reservedField_statusByte .., by simp [statusCode, statusOfCause]⟩
  · refine ⟨_, _, h, rfl, rfl, reservedField_statusByte .., ?_⟩
    rw [boundaryField_statusByte, statusField_statusByte, hd]
    cases i <;> simp [answerBoundary, statusCode, Engine.hit]

/-! ### What a step writes -/

/-- Settles O15: of the host's actions only power-on and a presented word touch FAULT and CAUSE, and of the cases of a
word only the two fault entries do. -/
theorem faultChangesOnlyByEntryOrPowerOn : Obligations.FaultChangesOnlyByEntryOrPowerOn := by
  unfold Obligations.FaultChangesOnlyByEntryOrPowerOn
  intro s t h hne
  have same (hf : t.fault = s.fault) (hc : t.cause = s.cause) : False := hne.elim (· hf) (· hc)
  obtain ⟨-, rfl⟩ | ⟨rest, -, rfl⟩ | ⟨rest, hi, -⟩ | ⟨w, rest, hi, -, hw⟩ := stepPort_next_cases h
  · exact (same rfl rfl).elim
  · exact (same rfl rfl).elim
  · exact .inl ⟨rest, hi⟩
  · obtain ⟨-, hx⟩ | ⟨hf, hd, hx⟩ | ⟨hf, c, hd, hc, hx⟩ | ⟨-, i, -, -, hx⟩ :=
      execWord_next_cases w { s with inputs := rest } <;> cases hx.symm.trans hw
    · exact (same rfl rfl).elim
    · exact .inr ⟨hf, rfl, rfl, w, rest, hi, .inl ⟨rfl, hd⟩⟩
    · exact .inr ⟨hf, rfl, rfl, w, rest, hi, .inr ⟨rfl, c, hd, hc⟩⟩
    · exact (same rfl rfl).elim

/-- Settles O24: a word that changes `cb` completes as a command, and by `effect_cb` the command is INIT or CONFIG. -/
theorem chunkBitsWrittenOnlyByConstruction : Obligations.ChunkBitsWrittenOnlyByConstruction := by
  unfold Obligations.ChunkBitsWrittenOnlyByConstruction
  intro s t h hne
  obtain ⟨-, rfl⟩ | ⟨rest, -, rfl⟩ | ⟨rest, hi, -⟩ | ⟨w, rest, hi, -, hw⟩ := stepPort_next_cases h
  · exact absurd rfl hne
  · exact absurd rfl hne
  · exact .inl ⟨rest, hi⟩
  · refine .inr ⟨w, rest, hi, ?_⟩
    obtain ⟨-, hx⟩ | ⟨-, -, hx⟩ | ⟨-, c, -, -, hx⟩ | ⟨-, i, hd, -, hx⟩ :=
      execWord_next_cases w { s with inputs := rest } <;> cases hx.symm.trans hw
    · exact absurd rfl hne
    · exact absurd rfl hne
    · exact absurd rfl hne
    · by_contra hcon
      obtain ⟨hinit, hconf⟩ := not_or.1 hcon
      exact hne (effect_cb (fun he => hinit (he ▸ hd)) (fun c he => hconf ⟨c, he ▸ hd⟩) s.engine)

/-! ### A transaction -/

/-- Log entry 17: a transaction presents the word and takes the response it gets. -/
theorem transact_eq_some_iff (w : CmdWord) (s t : State) (r : Response) :
    transact w s = some (t, r) ↔ ∃ u, issue w s = .next u ∧ u.response = some r ∧ t = u.takeResponse := by
  unfold transact
  constructor
  · intro h
    split at h
    · next u hu =>
      split at h
      · next q hq => cases h; exact ⟨u, hu, hq, rfl⟩
      · cases h
    · cases h
    · cases h
  · rintro ⟨u, hu, hr, rfl⟩
    simp only [hu, hr]

theorem issue_inputs {w : CmdWord} {s t : State} (h : issue w s = .next t) : t.inputs = s.inputs := by
  unfold issue at h
  split at h
  · cases h
  · exact execWord_inputs h

theorem run_succ_of_step {s t : State} (h : step s = .next t) (k : Nat) :
    Host.Core.run core (k + 1) s = Host.Core.run core k t := by
  have hcore : core.step s = .next t := h
  simp only [Host.Core.run, hcore]

/-- Settles O6: the first step is `issue`, which keeps the host's actions, so that the second one takes the response. -/
theorem transactionIsPresentThenTake : Obligations.TransactionIsPresentThenTake := by
  unfold Obligations.TransactionIsPresentThenTake
  intro s t w r rest h
  obtain ⟨u, hu, hr, rfl⟩ := (transact_eq_some_iff ..).1 h
  have first : step { s with inputs := .present w :: .take :: rest } = .next u := (step_of_present rfl).trans hu
  have second : step u = .next { u with inputs := rest, response := none } := step_of_take (issue_inputs hu)
  refine ⟨?_, u, run_succ_of_step first 0, hr⟩
  rw [run_succ_of_step first, run_succ_of_step second]
  rfl

end Sys2Proof.Machine
end

section
/-! PROOF. The logical window and the closed forms (spec 10_state R29, R30, 41_rolling_hash R103, R112). -/

namespace Sys2Proof.Machine

open Safety

variable {W : Nat}

/-! ### The logical window under rolls -/

/-- A window read as a list of zeros is the list of a window of zeros. -/
theorem Engine.logical_of_winRead_zero {e : Engine W} (h : ∀ k, e.winRead k = 0) :
    e.logical = List.replicate 64 0 := by
  rw [logical, List.eq_replicate_iff]
  simp [logicalAt, h]

theorem Engine.logical_fresh (c : ChunkBits) : (fresh c : Engine W).logical = List.replicate 64 0 :=
  logical_of_winRead_zero (fresh_winRead c)

/-- R141's all-zero window. -/
theorem Engine.logical_of_windowZero {e : Engine W} (h : e.windowZero = true) :
    e.logical = List.replicate 64 0 := by
  have hw : e.window = Vector.replicate 64 0 := by simpa [windowZero] using h
  exact logical_of_winRead_zero fun k => by simp [winRead, hw]

/-- R29: rolls shift the bytes into the logical window. -/
theorem Engine.logical_rollAll (bs : List Byte) (e : Engine W) :
    (e.rollAll bs).logical = (e.logical ++ bs).drop bs.length := by
  induction bs generalizing e with
  | nil => simp
  | cons b bs ih =>
    rw [rollAll_cons, ih, logical_roll, logical_eq_cons]
    simp

/-- R108: 64 bytes or more push every old byte out of the window. -/
theorem Engine.logical_rollAll_of_long {bs : List Byte} (h : 64 ≤ bs.length) (e : Engine W) :
    (e.rollAll bs).logical = bs.drop (bs.length - 64) := by
  rw [logical_rollAll, List.drop_append, List.drop_of_length_le (by rwa [logical_length]), logical_length,
    List.nil_append]

theorem Engine.rollAll_append (a c : List Byte) (e : Engine W) : e.rollAll (a ++ c) = (e.rollAll a).rollAll c :=
  List.foldl_append

@[simp] theorem Engine.rollAll_cb (bs : List Byte) (e : Engine W) : (e.rollAll bs).cb = e.cb := by
  induction bs generalizing e with
  | nil => rfl
  | cons b bs ih => exact ih (e.roll b)

/-- Settles O36: `logical_rollAll`, and at a fresh engine the window of zeros. -/
theorem logicalWindowIsLastBytes : Obligations.LogicalWindowIsLastBytes := by
  unfold Obligations.LogicalWindowIsLastBytes
  refine ⟨fun e bs => e.logical_rollAll bs, fun c bs => ?_⟩
  rw [Engine.logical_rollAll, Engine.logical_fresh]

/-! ### The sums of the logical window under a roll -/

theorem byteSum_replicate_zero (n : Nat) : byteSum (List.replicate n 0) = 0 := by
  induction n with
  | zero => rfl
  | succ n ih => rw [List.replicate_succ, byteSum, ih]; rfl

theorem weightedSum_replicate_zero (n : Nat) : weightedSum (List.replicate n 0) = 0 := by
  induction n with
  | zero => rfl
  | succ n ih => rw [List.replicate_succ, weightedSum, ih]; simp

/-- A roll trades the oldest byte for the new one. -/
theorem byteSum_logical_roll (b : Byte) (e : Engine W) :
    byteSum (e.roll b).logical + (e.winRead e.wofs).toNat = byteSum e.logical + b.toNat := by
  rw [Engine.logical_roll, Engine.logical_eq_cons e, List.tail_cons, byteSum_append]
  simp only [byteSum]
  omega

/-- A roll drops the oldest byte, of weight 64, and raises the weight of every byte left, the new one's from 0. -/
theorem weightedSum_logical_roll (b : Byte) (e : Engine W) :
    weightedSum (e.roll b).logical + 64 * (e.winRead e.wofs).toNat =
      weightedSum e.logical + byteSum (e.roll b).logical := by
  rw [Engine.logical_roll, Engine.logical_eq_cons e, List.tail_cons, weightedSum_append, byteSum_append]
  simp only [byteSum, weightedSum, List.length_map, List.length_range, List.length_cons, List.length_nil]
  omega

/-! ### The closed form with any initial values -/

/-- A word of `W` bits made from a number is the number's image in the ring of those words. -/
theorem ofNat_eq_natCast (n : Nat) : BitVec.ofNat W n = (n : BitVec W) := rfl

theorem setWidth_eq_natCast (b : Byte) : b.setWidth W = (b.toNat : BitVec W) := by
  apply BitVec.eq_of_toNat_eq
  rw [BitVec.toNat_setWidth, ← ofNat_eq_natCast, BitVec.toNat_ofNat]

/-- R30: one more roll. -/
theorem offsetForm_roll {S1 S2 : BitVec W} {n : Nat} {e : Engine W} (b : Byte) (h : OffsetForm S1 S2 n e) :
    OffsetForm S1 S2 (n + 1) (e.roll b) := by
  obtain ⟨h1, h2⟩ := h
  have hb := congrArg (Nat.cast (R := BitVec W)) (byteSum_logical_roll b e)
  have hw := congrArg (Nat.cast (R := BitVec W)) (weightedSum_logical_roll b e)
  simp only [ofNat_eq_natCast] at h1 h2
  push_cast at hb hw
  have s1 : (e.roll b).s1 = S1 + (byteSum (e.roll b).logical : BitVec W) := by
    rw [Engine.roll_s1, nextS1, h1, setWidth_eq_natCast, setWidth_eq_natCast]
    linear_combination -hb
  refine ⟨s1, ?_⟩
  rw [Engine.roll_s2, ← Engine.roll_s1, nextS2, s1, h2]
  simp only [ofNat_eq_natCast]
  push_cast
  linear_combination -hw

/-- R30 before any roll. -/
theorem offsetForm_of_windowZero {e : Engine W} (h : e.windowZero = true) : OffsetForm e.s1 e.s2 0 e := by
  rw [OffsetForm, Engine.logical_of_windowZero h, byteSum_replicate_zero, weightedSum_replicate_zero]
  simp

/-- Settles O53: the roll by the two sums' laws, the all-zero window because both its sums are 0. -/
theorem rollKeepsOffsetForm : Obligations.RollKeepsOffsetForm := by
  unfold Obligations.RollKeepsOffsetForm
  exact fun W S1 S2 n e => ⟨fun b => offsetForm_roll b, offsetForm_of_windowZero⟩

theorem offsetForm_rollAll {S1 S2 : BitVec W} (bs : List Byte) {n : Nat} {e : Engine W} (h : OffsetForm S1 S2 n e) :
    OffsetForm S1 S2 (n + bs.length) (e.rollAll bs) := by
  induction bs generalizing n e with
  | nil => exact h
  | cons b bs ih =>
    have hcount : n + (bs.length + 1) = n + 1 + bs.length := by omega
    rw [List.length_cons, Engine.rollAll_cons, hcount]
    exact ih (offsetForm_roll b h)

/-- Settles O37: the rolls' form, from the form of no roll. -/
theorem closedFormForAnyInitialValues : Obligations.ClosedFormForAnyInitialValues := by
  unfold Obligations.ClosedFormForAnyInitialValues
  intro W e bs h
  have hform := offsetForm_rollAll bs (offsetForm_of_windowZero h)
  rwa [Nat.zero_add] at hform

/-! ### The closed form of the block's initial values -/

/-- With `S1 = 1984` the term that grows with the number of rolls is 0. -/
theorem closedForm_iff_offsetForm (n : Nat) (e : Engine W) :
    ClosedForm e ↔ OffsetForm (BitVec.ofNat W 1984) (BitVec.ofNat W 124992) n e := by
  simp [ClosedForm, OffsetForm, BitVec.ofNat_add]

theorem closedForm_roll (b : Byte) {e : Engine W} (h : ClosedForm e) : ClosedForm (e.roll b) :=
  (closedForm_iff_offsetForm 1 _).2 (offsetForm_roll b ((closedForm_iff_offsetForm 0 e).1 h))

theorem closedForm_rollAll (bs : List Byte) {e : Engine W} (h : ClosedForm e) : ClosedForm (e.rollAll bs) :=
  (closedForm_iff_offsetForm _ _).2 (offsetForm_rollAll bs ((closedForm_iff_offsetForm 0 e).1 h))

theorem closedForm_fresh (c : ChunkBits) : ClosedForm (Engine.fresh c : Engine W) := by
  rw [ClosedForm, Engine.logical_fresh, byteSum_replicate_zero, weightedSum_replicate_zero]
  exact ⟨rfl, rfl⟩

theorem closedForm_effect (i : Instr) {e : Engine W} (h : ClosedForm e) : ClosedForm (effect i e) := by
  cases i with
  | init => exact closedForm_fresh 13
  | config c => exact closedForm_fresh (cfgField c)
  | reset => exact closedForm_fresh e.cb
  | roll b => exact closedForm_roll b h
  | scan b =>
    show ClosedForm (e.scanned b)
    unfold Engine.scanned
    split
    · exact closedForm_fresh e.cb
    · exact closedForm_roll b h
  | digest => exact h
  | countbits => exact h

/-! ### Ranges -/

/-- R30: with `n` bytes the weights are `n` to 1, and a byte is at most 255. -/
theorem weightedSum_le (l : List Byte) : 2 * weightedSum l ≤ 255 * (l.length * (l.length + 1)) := by
  induction l with
  | nil => simp [weightedSum]
  | cons b l ih =>
    have hb : (l.length + 1) * b.toNat ≤ (l.length + 1) * 255 := Nat.mul_le_mul_left _ (by omega)
    rw [weightedSum, List.length_cons]
    linarith

section
variable {e : Engine 32} (h : ClosedForm e)
include h

/-- R30: the exact number is below `2^32`. -/
theorem closedForm_toNat_s1 : e.s1.toNat = 1984 + byteSum e.logical := by
  have hle := byteSum_le e.logical
  rw [Engine.logical_length] at hle
  rw [h.1, BitVec.toNat_ofNat, Config.s1Init]
  omega

theorem closedForm_toNat_s2 : e.s2.toNat = 124992 + weightedSum e.logical := by
  have hle := weightedSum_le e.logical
  rw [Engine.logical_length] at hle
  rw [h.2, BitVec.toNat_ofNat, Config.s2Init]
  omega

theorem closedForm_s1_range : 1984 ≤ e.s1.toNat ∧ e.s1.toNat ≤ 18304 := by
  have hle := byteSum_le e.logical
  rw [Engine.logical_length] at hle
  rw [closedForm_toNat_s1 h]
  omega

theorem closedForm_s2_range : 124992 ≤ e.s2.toNat ∧ e.s2.toNat ≤ 655392 := by
  have hle := weightedSum_le e.logical
  rw [Engine.logical_length] at hle
  rw [closedForm_toNat_s2 h]
  omega

/-- R112: the upper half of the digest is `s1`, which is below `2^15`. -/
theorem closedForm_digest_bit31 : e.digest.getLsbD 31 = false := by
  have hs1 := closedForm_s1_range h
  have hd := e.toNat_digest
  rw [BitVec.getLsbD, Nat.testBit_eq_decide_div_mod_eq]
  simp only [decide_eq_false_iff_not]
  omega

theorem closedForm_toNat_digest_upper : (e.digest.extractLsb' 16 15).toNat = e.s1.toNat := by
  have hs1 := closedForm_s1_range h
  have hd := e.toNat_digest
  rw [BitVec.extractLsb'_toNat, Nat.shiftRight_eq_div_pow]
  omega

end

/-- Settles O34: the ranges, and the digest's halves by `Engine.toNat_digest`; its bits 30:16 are `s1`, which is at most
18304. -/
theorem digestClosedFormAndRanges : Obligations.DigestClosedFormAndRanges := by
  unfold Obligations.DigestClosedFormAndRanges
  intro e h
  have hs1 := closedForm_s1_range h
  refine ⟨hs1, closedForm_s2_range h, ?_, closedForm_digest_bit31 h, fun hones => ?_⟩
  · rw [e.toNat_digest, ← closedForm_toNat_s1 h, ← closedForm_toNat_s2 h, Nat.mod_eq_of_lt (by omega)]
  · have hupper := closedForm_toNat_digest_upper h
    rw [hones] at hupper
    simp at hupper
    omega

/-- Settles O35: both engines are in closed form, where the accumulators are exact numbers, and the sums of the logical
windows differ by the roll's terms. -/
theorem rollNeverWrapsInClosedForm : Obligations.RollNeverWrapsInClosedForm := by
  unfold Obligations.RollNeverWrapsInClosedForm
  intro e b h
  have hroll := closedForm_roll b h
  have hb := byteSum_logical_roll b e
  have hw := weightedSum_logical_roll b e
  rw [closedForm_toNat_s1 h, closedForm_toNat_s2 h, closedForm_toNat_s1 hroll, closedForm_toNat_s2 hroll]
  omega

end Sys2Proof.Machine
end

section
/-! PROOF. The invariant (spec 10_state R26, R30, 30_encoding R66). -/

namespace Sys2Proof.Machine

open Safety

/-! ### The parts of the invariant -/

/-- R66: a response made by `statusByte` is well formed unless it sets BOUNDARY with a STATUS other than OK. -/
theorem responseWellFormed_statusByte {st : Status} {v : Bool} (d : DataWord) (h : v = true → st = .ok) :
    ResponseWellFormed ⟨statusByte st v, d⟩ := by
  refine ⟨reservedField_statusByte st v d, fun hv => ?_⟩
  rw [boundaryField_statusByte] at hv
  rw [h hv, isOk_statusByte_ok]

theorem pendingWellFormed_of_response {t : State} {st : Status} {v : Bool} {d : DataWord}
    (hr : t.response = some ⟨statusByte st v, d⟩) (h : v = true → st = .ok) : PendingWellFormed t := by
  intro r hr'
  cases hr.symm.trans hr'
  exact responseWellFormed_statusByte d h

theorem pendingWellFormed_of_idle {t : State} (h : t.response = none) : PendingWellFormed t := by
  intro r hr
  cases h.symm.trans hr

/-- The reset state, with any host actions to come. -/
theorem inv_reset (rest : List HostAction) : Inv { State.reset with inputs := rest } where
  faultConsistent := by simp [FaultConsistent, State.reset]
  pending := pendingWellFormed_of_idle rfl
  closedForm := closedForm_fresh 13

/-- Settles O32: `inv_reset` with no action to come. -/
theorem resetMeetsInvariant : Obligations.ResetMeetsInvariant := by
  unfold Obligations.ResetMeetsInvariant
  exact inv_reset []

/-- The invariant does not speak of the host's later actions. -/
theorem inv_inputs {s : State} (h : Inv s) (rest : List HostAction) : Inv { s with inputs := rest } :=
  ⟨h.faultConsistent, h.pending, h.closedForm⟩

/-- Every word keeps the invariant: a fault entry sets FAULT and CAUSE together, and a command that completes keeps
both and the closed form. -/
theorem execWord_keeps_inv {w : CmdWord} {s t : State} (h : Inv s) (ht : execWord w s = .next t) : Inv t := by
  obtain ⟨-, hx⟩ | ⟨-, -, hx⟩ | ⟨-, c, -, -, hx⟩ | ⟨-, i, -, -, hx⟩ := execWord_next_cases w s <;>
    cases hx.symm.trans ht
  · exact ⟨h.faultConsistent, pendingWellFormed_of_response rfl (by simp), h.closedForm⟩
  · exact ⟨by simp [FaultConsistent], pendingWellFormed_of_response rfl (by simp), h.closedForm⟩
  · exact ⟨by simp [FaultConsistent], pendingWellFormed_of_response rfl (by simp), h.closedForm⟩
  · exact ⟨h.faultConsistent, pendingWellFormed_of_response rfl (fun _ => rfl), closedForm_effect i h.closedForm⟩

/-- Settles O33: each action of the host keeps the invariant, a presented word by `execWord_keeps_inv`. -/
theorem stepKeepsInvariant : Obligations.StepKeepsInvariant := by
  unfold Obligations.StepKeepsInvariant
  intro s t hs h
  obtain ⟨-, rfl⟩ | ⟨rest, -, rfl⟩ | ⟨rest, -, rfl⟩ | ⟨w, rest, -, -, hw⟩ := stepPort_next_cases h
  · exact hs
  · exact ⟨hs.faultConsistent, pendingWellFormed_of_idle rfl, hs.closedForm⟩
  · exact inv_reset rest
  · exact execWord_keeps_inv (inv_inputs hs rest) hw

end Sys2Proof.Machine
end

section
/-! PROOF. No response depends on the accumulator width (spec 10_state R31). -/

namespace Sys2Proof.Machine

open Safety

variable {W V : Nat}

/-! ### The engine with 16-bit accumulators -/

/-- The same engine with the accumulators cut to the 16 bits a digest shows (R31, R110). -/
def Engine.low (e : Engine W) : Engine 16 :=
  { e with s1 := e.s1.extractLsb' 0 16, s2 := e.s2.extractLsb' 0 16 }

/-- R31's relation between engines of two widths: the same engine at 16 bits. -/
theorem agreeLow_iff (e : Engine W) (f : Engine V) : AgreeLow e f ↔ e.low = f.low := by
  rw [Engine.low, Engine.low, Engine.mk.injEq]
  constructor
  · rintro ⟨h1, h2, hwin, hwofs, hcb⟩
    exact ⟨h1, h2, hwin, hwofs, hcb⟩
  · rintro ⟨h1, h2, hwin, hwofs, hcb⟩
    exact ⟨h1, h2, hwin, hwofs, hcb⟩

@[simp] theorem Engine.digest_low (e : Engine W) : e.low.digest = e.digest := by
  simp only [digest_eq_append, low, BitVec.extractLsb'_eq_self]

@[simp] theorem Engine.strength_low (e : Engine W) : e.low.strength = e.strength :=
  congrArg (countBitsFn · e.cb) e.digest_low

/-! ### From 16 bits up the operations commute with the cut -/

section
variable (hW : 16 ≤ W)
include hW

theorem low_add (x y : BitVec W) :
    (x + y).extractLsb' 0 16 = x.extractLsb' 0 16 + y.extractLsb' 0 16 := by
  simp only [← BitVec.setWidth_eq_extractLsb' hW, BitVec.setWidth_add _ _ hW]

theorem low_sub (x y : BitVec W) :
    (x - y).extractLsb' 0 16 = x.extractLsb' 0 16 - y.extractLsb' 0 16 := by
  simp only [← BitVec.setWidth_eq_extractLsb' hW, BitVec.sub_eq_add_neg, BitVec.setWidth_add _ _ hW,
    BitVec.setWidth_neg_of_le hW]

theorem low_ofNat (n : Nat) : (BitVec.ofNat W n).extractLsb' 0 16 = BitVec.ofNat 16 n := by
  rw [← BitVec.setWidth_eq_extractLsb' hW, BitVec.setWidth_ofNat_of_le hW]

theorem low_setWidth (b : Byte) : (b.setWidth W).extractLsb' 0 16 = b.setWidth 16 := by
  rw [← BitVec.setWidth_eq_extractLsb' hW, BitVec.setWidth_setWidth_of_le _ hW]

theorem low_nextS1 (s1 : BitVec W) (b old : Byte) :
    (nextS1 s1 b old).extractLsb' 0 16 = nextS1 (s1.extractLsb' 0 16) b old := by
  simp only [nextS1, low_add hW, low_sub hW, low_setWidth hW]

theorem low_nextS2 (s2 s1 : BitVec W) (old : Byte) :
    (nextS2 s2 s1 old).extractLsb' 0 16 = nextS2 (s2.extractLsb' 0 16) (s1.extractLsb' 0 16) old := by
  simp only [nextS2, low_add hW, low_sub hW, low_ofNat hW]

theorem Engine.low_fresh (c : ChunkBits) : (fresh c : Engine W).low = fresh c := by
  simp only [low, fresh, low_ofNat hW]

theorem Engine.low_roll (b : Byte) (e : Engine W) : (e.roll b).low = e.low.roll b := by
  simp only [low, roll, low_nextS1 hW, low_nextS2 hW]
  rfl

/-- R133: the digest SCAN tests is seen at 16 bits. -/
theorem Engine.tested_low (b : Byte) (e : Engine W) : e.low.tested b = e.tested b := by
  rw [tested, tested, ← low_roll hW, digest_low]

theorem Engine.hit_low (b : Byte) (e : Engine W) : e.low.hit b = e.hit b :=
  congrArg (boundary · e.cb) (e.tested_low hW b)

theorem Engine.low_scanned (b : Byte) (e : Engine W) : (e.scanned b).low = e.low.scanned b := by
  have hlow := e.hit_low hW b
  cases hb : e.hit b with
  | true => rw [scanned_of_hit hb, scanned_of_hit (hlow.trans hb), low_fresh hW]; rfl
  | false => rw [scanned_of_miss hb, scanned_of_miss (hlow.trans hb), low_roll hW]

end

/-- Settles O38: what an engine of 16 bits or more answers, and the engine it becomes at 16 bits, depend only on the
engine at 16 bits. -/
theorem widthDoesNotShow : Obligations.WidthDoesNotShow := by
  unfold Obligations.WidthDoesNotShow
  intro W V hW hV
  simp only [agreeLow_iff]
  refine ⟨fun c => by rw [Engine.low_fresh hW, Engine.low_fresh hV], fun e f h => ⟨?_, ?_, fun b => ⟨?_, ?_, ?_, ?_⟩⟩⟩
  · rw [← e.digest_low, h, f.digest_low]
  · rw [← e.strength_low, h, f.strength_low]
  · rw [← e.tested_low hW, h, f.tested_low hV]
  · rw [← e.hit_low hW, h, f.hit_low hV]
  · rw [Engine.low_roll hW, h, Engine.low_roll hV]
  · rw [Engine.low_scanned hW, h, Engine.low_scanned hV]

end Sys2Proof.Machine
end

section
/-! PROOF. The host sees the logical window, `cb`, FAULT and CAUSE, and nothing else (spec 10_state R32). -/

namespace Sys2Proof.Machine

open Safety

variable {W : Nat}

/-! ### Engines that differ in where the window starts -/

/-- Two engines in closed form with the same logical window and `cb`; `wofs` and the slots may differ. -/
structure Engine.Alike (e f : Engine W) : Prop where
  logical : e.logical = f.logical
  cb : e.cb = f.cb
  closedLeft : ClosedForm e
  closedRight : ClosedForm f

namespace Engine.Alike

variable {e f : Engine W}

theorem digest_eq (h : e.Alike f) : e.digest = f.digest := by
  obtain ⟨hl, -, ⟨e1, e2⟩, f1, f2⟩ := h
  rw [Engine.digest, Engine.digest, e1, e2, f1, f2, hl]

theorem strength_eq (h : e.Alike f) : e.strength = f.strength := by
  rw [Engine.strength, Engine.strength, h.digest_eq, h.cb]

theorem roll (b : Byte) (h : e.Alike f) : (e.roll b).Alike (f.roll b) where
  logical := by rw [Engine.logical_roll, Engine.logical_roll, h.logical]
  cb := h.cb
  closedLeft := closedForm_roll b h.closedLeft
  closedRight := closedForm_roll b h.closedRight

theorem tested_eq (b : Byte) (h : e.Alike f) : e.tested b = f.tested b := (h.roll b).digest_eq

theorem hit_eq (b : Byte) (h : e.Alike f) : e.hit b = f.hit b := by
  rw [Engine.hit, Engine.hit, h.tested_eq b, h.cb]

/-- A fresh engine is like itself. -/
theorem fresh {c d : ChunkBits} (h : c = d) : (Engine.fresh c : Engine W).Alike (Engine.fresh d) := by
  subst h
  exact ⟨rfl, rfl, closedForm_fresh c, closedForm_fresh c⟩

theorem scanned (b : Byte) (h : e.Alike f) : (e.scanned b).Alike (f.scanned b) := by
  have hhit := h.hit_eq b
  cases hb : f.hit b with
  | true => rw [Engine.scanned_of_hit hb, Engine.scanned_of_hit (hhit.trans hb)]; exact fresh h.cb
  | false => rw [Engine.scanned_of_miss hb, Engine.scanned_of_miss (hhit.trans hb)]; exact h.roll b

theorem effect (i : Instr) (h : e.Alike f) : (effect i e).Alike (effect i f) := by
  cases i with
  | init => exact fresh rfl
  | config c => exact fresh rfl
  | reset => exact fresh h.cb
  | roll b => exact h.roll b
  | scan b => exact h.scanned b
  | digest => exact h
  | countbits => exact h

theorem answerBoundary_eq (i : Instr) (h : e.Alike f) : answerBoundary i e = answerBoundary i f := by
  cases i with
  | scan b => exact h.hit_eq b
  | _ => rfl

theorem answerData_eq (i : Instr) (h : e.Alike f) : answerData i e = answerData i f := by
  cases i with
  | scan b => exact h.tested_eq b
  | digest => exact h.digest_eq
  | countbits => exact congrArg dataOfCount h.strength_eq
  | _ => rfl

end Engine.Alike

/-! ### Blocks that differ in where the window starts -/

/-- Two blocks with engines alike and the same FAULT and CAUSE, whatever their ports. -/
structure State.Alike (s t : State) : Prop where
  engine : s.engine.Alike t.engine
  fault : s.fault = t.fault
  cause : s.cause = t.cause

theorem alike_of_indistinguishable {s t : State} (h : Indistinguishable s t) : s.Alike t :=
  ⟨⟨h.logical, h.cb, h.closedLeft, h.closedRight⟩, h.fault, h.cause⟩

/-- R32 for one word: the answers are equal, and the blocks stay alike. -/
theorem execWord_of_alike (w : CmdWord) {s t : State} (h : s.Alike t) :
    ∃ s' t', execWord w s = .next s' ∧ execWord w t = .next t' ∧ s'.Alike t' ∧ s'.response = t'.response := by
  obtain ⟨he, hf, hc⟩ := h
  obtain ⟨hs, hx⟩ | ⟨hs, hd, hx⟩ | ⟨hs, c, hd, hr, hx⟩ | ⟨hs, i, hd, hi, hx⟩ := execWord_next_cases w s
  · refine ⟨_, _, hx, execWord_of_fault w (hf ▸ hs), ⟨he, hf, hc⟩, ?_⟩
    rw [State.answerFaulted_response, State.answerFaulted_response, hc]
  · exact ⟨_, _, hx, execWord_of_illegal (hf ▸ hs) hd, ⟨he, rfl, rfl⟩, rfl⟩
  · refine ⟨_, t.raiseFault .configError (dataOfByte c), hx, ?_, ⟨he, rfl, rfl⟩, rfl⟩
    rw [execWord_of_decode hd, exec_config_of_outOfRange (hf ▸ hs) hr]
  · refine ⟨_, t.complete i, hx, ?_, ⟨he.effect i, hf, hc⟩, ?_⟩
    · rw [execWord_of_decode hd, exec_of_accepted (hf ▸ hs) hi]
    · rw [State.complete_response, State.complete_response, he.answerBoundary_eq i, he.answerData_eq i]

theorem indistinguishable_of_alike {s t : State} (h : s.Alike t) (hr : s.response = t.response)
    (hi : s.inputs = t.inputs) : Indistinguishable s t := by
  obtain ⟨⟨hl, hb, hcs, hct⟩, hf, hc⟩ := h
  exact ⟨hl, hb, hf, hc, hr, hi, hcs, hct⟩

/-- Settles O52: the two blocks have the same next action, and a word runs alike by `execWord_of_alike`; a refusal
depends on the port alone. -/
theorem stepKeepsIndistinguishable : Obligations.StepKeepsIndistinguishable := by
  unfold Obligations.StepKeepsIndistinguishable
  intro s t h
  have alike := alike_of_indistinguishable h
  have hin := h.inputs
  have hresp := h.response
  refine ⟨fun s' hs => ?_, fun x hx => ?_⟩
  · obtain ⟨hi, rfl⟩ | ⟨rest, hi, rfl⟩ | ⟨rest, hi, rfl⟩ | ⟨w, rest, hi, hr, hw⟩ := stepPort_next_cases hs
    · exact ⟨t, step_of_no_action (hin ▸ hi), h⟩
    · exact ⟨_, step_of_take (hin ▸ hi), indistinguishable_of_alike ⟨alike.engine, h.fault, h.cause⟩ rfl rfl⟩
    · exact ⟨_, step_of_powerOn (hin ▸ hi), indistinguishable_of_alike ⟨.fresh rfl, rfl, rfl⟩ rfl rfl⟩
    · have alike' : State.Alike { s with inputs := rest } { t with inputs := rest } :=
        ⟨alike.engine, h.fault, h.cause⟩
      obtain ⟨u, t', hu, ht', hut, hr'⟩ := execWord_of_alike w alike'
      cases hw.symm.trans hu
      refine ⟨t', (step_of_present_idle (hin ▸ hi) (hresp ▸ hr)).trans ht', indistinguishable_of_alike hut hr' ?_⟩
      rw [execWord_inputs hw, execWord_inputs ht']
  · rw [step_refused_iff, hin, hresp] at hx
    exact (step_refused_iff t x).2 hx

end Sys2Proof.Machine
end

section
/-! PROOF. Sequences of words (spec 10_state R32, 40_construction R84, 41_rolling_hash R106 to R108, 60_exceptions R165,
70_reset R195, R196). -/

namespace Sys2Proof.Machine

open Safety

/-! ### One transaction -/

@[simp] theorem State.withEngine_self (s : State) : s.withEngine s.engine = s := rfl

@[simp] theorem State.withEngine_withEngine (s : State) (e f : Engine Config.accWidth) :
    (s.withEngine e).withEngine f = s.withEngine f := rfl

theorem execWord_of_transact {w : CmdWord} {s t : State} {r : Response} (hs : s.response = none)
    (ht : transact w s = some (t, r)) : ∃ u, execWord w s = .next u ∧ u.response = some r ∧ t = u.takeResponse := by
  obtain ⟨u, hu, hr, rfl⟩ := (transact_eq_some_iff ..).1 ht
  exact ⟨u, (issue_of_idle w hs).symm.trans hu, hr, rfl⟩

/-- Once its response is taken, an accepted command has changed the engine alone. -/
theorem transact_of_accepted {i : Instr} {s : State} (hf : s.fault = false) (hs : s.response = none)
    (hi : i.accepted = true) :
    transact (encode i) s = some (s.withEngine (effect i s.engine),
      ⟨statusByte .ok (answerBoundary i s.engine), answerData i s.engine⟩) := by
  have hx := (execWord_of_decode (decode_encode i) s).trans (exec_of_accepted hf hi)
  rw [transact_of_execWord hs hx (State.complete_response i s), State.complete,
    takeResponse_respond (s := s.withEngine (effect i s.engine)) hs]

theorem transactAll_singleton {w : CmdWord} {s t : State} {r : Response} (h : transact w s = some (t, r)) :
    transactAll [w] s = some (t, [r]) := by
  simp [transactAll, h]

theorem transactAll_append_of_eq {ws vs : List CmdWord} {s t u : State} {rs qs : List Response}
    (h : transactAll ws s = some (t, rs)) (h' : transactAll vs t = some (u, qs)) :
    transactAll (ws ++ vs) s = some (u, rs ++ qs) := by
  simp [transactAll_append, h, h']

/-! ### Sequences from blocks that are alike -/

/-- R32 for a transaction. -/
theorem transact_of_alike (w : CmdWord) {s t : State} (h : s.Alike t) (hs : s.response = none)
    (ht : t.response = none) :
    ∃ s' t' r, transact w s = some (s', r) ∧ transact w t = some (t', r) ∧ s'.Alike t' ∧
      s'.response = none ∧ t'.response = none := by
  obtain ⟨u, v, hu, hv, ⟨he, hf, hc⟩, hr⟩ := execWord_of_alike w h
  obtain ⟨u', r, hu', hur⟩ := execWord_answers w s
  cases hu.symm.trans hu'
  exact ⟨_, _, r, transact_of_execWord hs hu hur, transact_of_execWord ht hv (hr ▸ hur), ⟨he, hf, hc⟩, rfl, rfl⟩

/-- R32: blocks that are alike answer every sequence of words alike. -/
theorem responses_of_alike (ws : List CmdWord) {s t : State} (h : s.Alike t) (hs : s.response = none)
    (ht : t.response = none) :
    ∃ rs, responses ws s = some rs ∧ responses ws t = some rs ∧ rs.length = ws.length := by
  induction ws generalizing s t with
  | nil => exact ⟨[], rfl, rfl, rfl⟩
  | cons w ws ih =>
    obtain ⟨s', t', r, hws, hwt, h', hs', ht'⟩ := transact_of_alike w h hs ht
    obtain ⟨rs, hrs, hrt, hlen⟩ := ih h' hs' ht'
    obtain ⟨⟨_, _⟩, hps, rfl⟩ := Option.map_eq_some_iff.1 hrs
    obtain ⟨⟨_, _⟩, hpt, hqt⟩ := Option.map_eq_some_iff.1 hrt
    refine ⟨r :: _, ?_, ?_, congrArg (· + 1) hlen⟩
    · simp [responses, transactAll, hws, hps]
    · simpa [responses, transactAll, hwt, hpt] using hqt

/-- Settles O39: `SameView` and the closed forms make the blocks alike. -/
theorem equalViewsGiveEqualResponses : Obligations.EqualViewsGiveEqualResponses := by
  unfold Obligations.EqualViewsGiveEqualResponses
  intro s t ws h hs ht
  exact responses_of_alike ws ⟨⟨h.logical, h.cb, hs, ht⟩, h.fault, h.cause⟩ h.idleLeft h.idleRight

/-! ### ROLLBUF -/

section
variable {s : State} (hf : s.fault = false) (hs : s.response = none)
include hf hs

/-- R106: ROLLBUF rolls every byte in order. -/
theorem rollBuf_eq (a : List Byte) : rollBuf a s = some (s.withEngine (s.engine.rollAll a), .rolled) := by
  induction a generalizing s with
  | nil => rfl
  | cons b a ih =>
    have hb := transact_of_accepted (i := .roll b) hf hs rfl
    simp only [rollBuf, hb, isOk_statusByte_ok, if_true]
    exact ih (s := s.withEngine (s.engine.roll b)) hf hs

/-- The words of ROLLBUF one by one: the same end state, and every answer OK. -/
theorem transactAll_rolls (a : List Byte) :
    transactAll (a.map fun b => encode (.roll b)) s =
      some (s.withEngine (s.engine.rollAll a), List.replicate a.length ⟨statusByte .ok false, 0⟩) := by
  induction a generalizing s with
  | nil => rfl
  | cons b a ih =>
    have hb := transact_of_accepted (i := .roll b) hf hs rfl
    have ha := ih (s := s.withEngine (s.engine.roll b)) hf hs
    exact transactAll_append_of_eq (transactAll_singleton hb) ha

end

/-- Settles O41: `rollBuf_eq`, and rolling a joined list is rolling its parts in turn. -/
theorem rollBufRollsEveryByte : Obligations.RollBufRollsEveryByte := by
  unfold Obligations.RollBufRollsEveryByte
  intro s a c hf hs
  refine ⟨rollBuf_eq hf hs a, ?_⟩
  have hc := rollBuf_eq (s := s.withEngine (s.engine.rollAll a)) hf hs c
  rw [rollBuf_eq hf hs, rollBuf_eq hf hs, Option.bind_some, hc, Engine.rollAll_append]
  rfl

/-- R108: 64 bytes fill the logical window. -/
theorem alike_rollAll_drop {W : Nat} {e : Engine W} (h : ClosedForm e) {buf : List Byte} (hlen : 64 ≤ buf.length) :
    (e.rollAll buf).Alike (e.rollAll (buf.drop (buf.length - 64))) where
  logical := by
    have hdrop : (buf.drop (buf.length - 64)).length = 64 := by rw [List.length_drop]; omega
    rw [Engine.logical_rollAll_of_long hlen, Engine.logical_rollAll_of_long hdrop.ge, hdrop]
    rfl
  cb := by rw [Engine.rollAll_cb, Engine.rollAll_cb]
  closedLeft := closedForm_rollAll _ h
  closedRight := closedForm_rollAll _ h

/-- Settles O40: both buffers leave the same logical window, so the blocks are alike. -/
theorem lastBytesSuffice : Obligations.LastBytesSuffice := by
  unfold Obligations.LastBytesSuffice
  intro s buf ws hf hs h hlen
  refine ⟨_, _, rollBuf_eq hf hs buf, rollBuf_eq hf hs _, ?_⟩
  obtain ⟨rs, hl, hr, -⟩ := responses_of_alike ws (s := s.withEngine _) (t := s.withEngine _)
    ⟨alike_rollAll_drop h hlen, rfl, rfl⟩ hs hs
  exact hl.trans hr.symm

/-! ### Construction and RESET -/

/-- Settles O43: each word's transaction changes the engine alone, and RESET's new engine depends on `cb` alone, which
rolls keep. -/
theorem resetEqualsConstruction : Obligations.ResetEqualsConstruction := by
  unfold Obligations.ResetEqualsConstruction
  intro s c buf hf hs hc
  have config (d : Byte) (hd : d.toNat ≤ 31) := transactAll_singleton
    (transact_of_accepted (i := .config d) hf hs ((accepted_iff _).2 (by simpa using hd)))
  have rolls := transactAll_rolls (s := s.withEngine (Engine.fresh (cfgField c))) hf hs buf
  have reset := transactAll_singleton (transact_of_accepted (i := .reset)
    (s := s.withEngine ((Engine.fresh (cfgField c)).rollAll buf)) hf hs rfl)
  have init := transactAll_singleton (transact_of_accepted (i := .init) hf hs rfl)
  refine ⟨s.withEngine (Engine.fresh (cfgField c)), ?_, ?_, ?_⟩
  · rw [transactAll_append_of_eq (transactAll_append_of_eq (config c hc) rolls) reset]
    simp [effect]
  · rw [config c hc]
    rfl
  · rw [init, config 13 (by decide)]
    rfl

/-! ### Runs without a fault -/

/-- R164: a faulted block stays faulted. -/
theorem fault_of_transact {w : CmdWord} {s t : State} {r : Response} (hf : s.fault = true) (hs : s.response = none)
    (h : transact w s = some (t, r)) : t.fault = true ∧ t.response = none := by
  obtain ⟨u, hu, -, rfl⟩ := execWord_of_transact hs h
  cases (execWord_of_fault w hf).symm.trans hu
  exact ⟨hf, rfl⟩

theorem transactAll_cons_eq_some {w : CmdWord} {ws : List CmdWord} {s t : State} {rs : List Response}
    (h : transactAll (w :: ws) s = some (t, rs)) :
    ∃ u q qs, transact w s = some (u, q) ∧ transactAll ws u = some (t, qs) ∧ rs = q :: qs := by
  unfold transactAll at h
  split at h
  · cases h
  · next u q hq =>
    obtain ⟨⟨t', qs⟩, hqs, hp⟩ := Option.map_eq_some_iff.1 h
    cases hp
    exact ⟨u, q, qs, hq, hqs, rfl⟩

theorem fault_of_transactAll (ws : List CmdWord) {s t : State} {rs : List Response} (hf : s.fault = true)
    (hs : s.response = none) (h : transactAll ws s = some (t, rs)) : t.fault = true := by
  induction ws generalizing s rs with
  | nil => cases h; exact hf
  | cons w ws ih =>
    obtain ⟨u, q, qs, hq, hqs, -⟩ := transactAll_cons_eq_some h
    obtain ⟨hu, hur⟩ := fault_of_transact hf hs hq
    exact ih hu hur hqs

/-- The word encodes a command whose operand the block accepts (R86). -/
def Accepted (w : CmdWord) : Prop := ∃ i, decode w = .ok i ∧ i.accepted = true

/-- R86, R165: at a block that is not faulted, an accepted word is answered OK and keeps FAULT 0; any other is answered
with another STATUS and leaves FAULT 1. -/
theorem transact_fault_iff {w : CmdWord} {s t : State} {r : Response} (hf : s.fault = false) (hs : s.response = none)
    (h : transact w s = some (t, r)) :
    t.response = none ∧ ((t.fault = false ∧ Accepted w ∧ isOk r = true) ∨
      (t.fault = true ∧ ¬ Accepted w ∧ isOk r = false)) := by
  obtain ⟨u, hu, hr, rfl⟩ := execWord_of_transact hs h
  refine ⟨rfl, ?_⟩
  obtain ⟨hf', -⟩ | ⟨-, hd, hx⟩ | ⟨-, c, hd, hc, hx⟩ | ⟨-, i, hd, hi, hx⟩ := execWord_next_cases w s
  · cases hf.symm.trans hf'
  · cases hx.symm.trans hu
    cases hr
    exact .inr ⟨rfl, fun ⟨i, hi, _⟩ => hd ⟨i, hi⟩, by simp [isOk, statusOfCause, statusCode]⟩
  · cases hx.symm.trans hu
    cases hr
    refine .inr ⟨rfl, ?_, by simp [isOk, statusOfCause, statusCode]⟩
    rintro ⟨i, hi, hacc⟩
    cases hd.symm.trans hi
    exact (not_accepted_iff _).2 ⟨c, rfl, hc⟩ hacc
  · cases hx.symm.trans hu
    cases hr
    exact .inl ⟨hf, ⟨i, hd, hi⟩, isOk_statusByte_ok ..⟩

/-- R165 along a sequence: the first word that is not accepted leaves the fault the run ends with. -/
theorem transactAll_healthy_iff (ws : List CmdWord) {s t : State} {rs : List Response} (hf : s.fault = false)
    (hs : s.response = none) (h : transactAll ws s = some (t, rs)) :
    (t.fault = false ↔ ∀ w ∈ ws, Accepted w) ∧ (t.fault = false ↔ ∀ r ∈ rs, isOk r = true) := by
  induction ws generalizing s rs with
  | nil => cases h; simp [hf]
  | cons w ws ih =>
    obtain ⟨u, q, qs, hq, hqs, rfl⟩ := transactAll_cons_eq_some h
    obtain ⟨hur, ⟨hu, hw, hok⟩ | ⟨hu, hw, hok⟩⟩ := transact_fault_iff hf hs hq
    · simpa [hw, hok] using ih hu hur hqs
    · simp [hw, hok, fault_of_transactAll ws hu hur hqs]

/-- Settles O42: every word is answered (`transactAll_of_idle`), and `transactAll_healthy_iff` gives both conditions. -/
theorem runIsSafeExactlyWhenEveryWordIsAccepted : Obligations.RunIsSafeExactlyWhenEveryWordIsAccepted := by
  unfold Obligations.RunIsSafeExactlyWhenEveryWordIsAccepted
  intro s ws hf hs
  obtain ⟨t, rs, h, hlen, -⟩ := transactAll_of_idle ws hs
  obtain ⟨hacc, hok⟩ := transactAll_healthy_iff ws hf hs h
  exact ⟨t, rs, h, hlen, hacc, hok⟩

/-! ### Reads after a SCAN -/

/-- A command right after a SCAN reads the engine the SCAN left. -/
theorem responses_scan_then {s : State} (b : Byte) {i : Instr} (hf : s.fault = false) (hs : s.response = none)
    (hi : i.accepted = true) :
    responses [encode (.scan b), encode i] s =
      some [⟨statusByte .ok (s.engine.hit b), s.engine.tested b⟩,
        ⟨statusByte .ok (answerBoundary i (s.engine.scanned b)), answerData i (s.engine.scanned b)⟩] := by
  have scan := transactAll_singleton (transact_of_accepted (i := .scan b) hf hs rfl)
  have next := transactAll_singleton (transact_of_accepted (s := s.withEngine (s.engine.scanned b)) hf hs hi)
  exact congrArg (Option.map Prod.snd) (transactAll_append_of_eq scan next)

theorem statusByte_ok : statusByte .ok false = 0x00 := rfl
theorem statusByte_ok_boundary : statusByte .ok true = 0x80 := rfl

theorem digest_fresh (c : ChunkBits) : (Engine.fresh c : Engine Config.accWidth).digest = 0x07C0E840 := by
  rw [Engine.digest, Engine.fresh_s1, Engine.fresh_s2]
  decide

theorem strength_fresh_default : (Engine.fresh 13 : Engine Config.accWidth).strength = 15 := by decide

/-- Settles O48: a SCAN with a boundary leaves the fresh engine, one without leaves the engine it tested. -/
theorem readsAfterScan : Obligations.ReadsAfterScan := by
  unfold Obligations.ReadsAfterScan
  intro s b hf hs
  refine ⟨fun hb => ⟨?_, fun hcb => ?_⟩, fun hb => ?_⟩ <;> rw [responses_scan_then b hf hs rfl, hb]
  · simp only [Engine.scanned_of_hit hb, answerBoundary, answerData, digest_fresh, statusByte_ok,
      statusByte_ok_boundary]
  · simp only [Engine.scanned_of_hit hb, hcb, answerBoundary, answerData, strength_fresh_default, statusByte_ok,
      statusByte_ok_boundary]
    rfl
  · simp only [Engine.scanned_of_miss hb, answerBoundary, answerData, Engine.tested, statusByte_ok]

end Sys2Proof.Machine
end

section
/-! PROOF. FINDCHUNK (spec 42_boundary R135 to R144). -/

namespace Sys2Proof.Machine

open Safety

variable {W : Nat}

/-! ### The first boundary of a buffer -/

/-- The index of the first byte of the buffer at which a SCAN from the engine finds a boundary (R135). -/
def Engine.firstHit : List Byte → Engine W → Option Nat
  | [], _ => none
  | b :: bs, e => if e.hit b then some 0 else (firstHit bs (e.roll b)).map (· + 1)

theorem Engine.firstHit_of_hit {b : Byte} {e : Engine W} (h : e.hit b = true) (bs : List Byte) :
    firstHit (b :: bs) e = some 0 := by
  rw [firstHit, if_pos h]

theorem Engine.firstHit_of_miss {b : Byte} {e : Engine W} (h : e.hit b = false) (bs : List Byte) :
    firstHit (b :: bs) e = (firstHit bs (e.roll b)).map (· + 1) := by
  rw [firstHit, h, if_neg Bool.false_ne_true]

/-- No boundary at a prior byte, so the whole first part is rolled before the second is searched (R138). -/
theorem Engine.firstHit_append (a c : List Byte) (e : Engine W) :
    firstHit (a ++ c) e = (firstHit a e).or ((firstHit c (e.rollAll a)).map (a.length + ·)) := by
  induction a generalizing e with
  | nil => simp [firstHit]
  | cons b a ih =>
    cases hb : e.hit b with
    | true => rw [List.cons_append, firstHit_of_hit hb, firstHit_of_hit hb]; rfl
    | false =>
      have shift (n : Nat) : a.length + n + 1 = (b :: a).length + n := by rw [List.length_cons]; omega
      rw [List.cons_append, firstHit_of_miss hb, firstHit_of_miss hb, ih, rollAll_cons, Option.map_or, Option.map_map]
      exact congrArg (fun g => Option.or _ (Option.map g _)) (funext shift)

/-- The first boundary cuts the buffer: none in the bytes before it, and the SCAN of its byte finds one. -/
theorem Engine.firstHit_eq_some {buf : List Byte} {i : Nat} {e : Engine W} (h : firstHit buf e = some i) :
    ∃ a b c, buf = a ++ b :: c ∧ a.length = i ∧ firstHit a e = none ∧ (e.rollAll a).hit b = true := by
  induction buf generalizing e i with
  | nil => cases h
  | cons x xs ih =>
    cases hx : e.hit x with
    | true =>
      rw [firstHit_of_hit hx] at h
      cases h
      exact ⟨[], x, xs, rfl, rfl, rfl, hx⟩
    | false =>
      rw [firstHit_of_miss hx] at h
      obtain ⟨j, hj, rfl⟩ := Option.map_eq_some_iff.1 h
      obtain ⟨a, b, c, rfl, rfl, ha, hb⟩ := ih hj
      exact ⟨x :: a, b, c, rfl, rfl, by rw [firstHit_of_miss hx, ha]; rfl, hb⟩

/-! ### FINDCHUNK stops at the first boundary -/

/-- The block and the result after a search that found its boundary at the index, or none. -/
def foundAt (buf : List Byte) (s : State) : Option Nat → State × HostResult
  | some i => (s.withEngine (Engine.fresh s.engine.cb), .boundary i)
  | none => (s.withEngine (s.engine.rollAll buf), .none)

section
variable {s : State} (hf : s.fault = false) (hs : s.response = none)
include hf hs

/-- The transaction of one SCAN. -/
theorem transact_scan (b : Byte) :
    transact (encode (.scan b)) s =
      some (s.withEngine (s.engine.scanned b), ⟨statusByte .ok (s.engine.hit b), s.engine.tested b⟩) :=
  transact_of_accepted (i := .scan b) hf hs rfl

theorem findChunkFrom_eq (k : Nat) (buf : List Byte) :
    findChunkFrom k buf s = some (foundAt buf s ((Engine.firstHit buf s.engine).map (k + ·))) := by
  induction buf generalizing s k with
  | nil => rfl
  | cons b bs ih =>
    simp only [findChunkFrom, transact_scan hf hs, isOk_statusByte_ok, boundaryField_statusByte, if_true]
    cases hb : s.engine.hit b with
    | true => rw [if_pos rfl, Engine.firstHit_of_hit hb, Engine.scanned_of_hit hb]; rfl
    | false =>
      have hrest := ih (s := s.withEngine (s.engine.roll b)) hf hs (k + 1)
      rw [if_neg Bool.false_ne_true, Engine.firstHit_of_miss hb, Engine.scanned_of_miss hb, hrest]
      rw [State.withEngine_engine]
      cases Engine.firstHit bs (s.engine.roll b) with
      | none => rfl
      | some i => simp [foundAt, Nat.add_assoc, Nat.add_comm 1]

/-- R135: FINDCHUNK answers the first boundary's index with the engine fresh, or NONE with every byte rolled. -/
theorem findChunk_eq (buf : List Byte) :
    findChunk buf s = some (foundAt buf s (Engine.firstHit buf s.engine)) := by
  simp [findChunk, findChunkFrom_eq hf hs]

theorem findChunk_eq_none_iff (buf : List Byte) (t : State) :
    findChunk buf s = some (t, .none) ↔
      Engine.firstHit buf s.engine = none ∧ t = s.withEngine (s.engine.rollAll buf) := by
  rw [findChunk_eq hf hs]
  cases Engine.firstHit buf s.engine <;> simp [foundAt, eq_comm]

theorem findChunk_eq_boundary_iff (buf : List Byte) (t : State) (i : Nat) :
    findChunk buf s = some (t, .boundary i) ↔
      Engine.firstHit buf s.engine = some i ∧ t = s.withEngine (Engine.fresh s.engine.cb) := by
  rw [findChunk_eq hf hs]
  cases Engine.firstHit buf s.engine <;> simp [foundAt, eq_comm, and_comm]

/-- Scans that find nothing roll every byte; each answers OK without BOUNDARY. -/
theorem transactAll_scans_of_miss (buf : List Byte) (h : Engine.firstHit buf s.engine = none) :
    ∃ rs, transactAll (buf.map fun b => encode (.scan b)) s = some (s.withEngine (s.engine.rollAll buf), rs) ∧
      (∀ r ∈ rs, isOk r = true) ∧ rs.map boundaryField = List.replicate buf.length false := by
  induction buf generalizing s with
  | nil => exact ⟨[], rfl, by simp, rfl⟩
  | cons b bs ih =>
    cases hb : s.engine.hit b with
    | true => rw [Engine.firstHit_of_hit hb] at h; cases h
    | false =>
      rw [Engine.firstHit_of_miss hb, Option.map_eq_none_iff] at h
      obtain ⟨rs, hrs, hok, hbits⟩ := ih (s := s.withEngine (s.engine.roll b)) hf hs h
      have scan := transact_scan hf hs b
      rw [Engine.scanned_of_miss hb, hb] at scan
      refine ⟨_ :: rs, transactAll_append_of_eq (transactAll_singleton scan) hrs, ?_, ?_⟩
      · simpa using hok
      · simp [hbits, List.replicate_succ]

end

/-- Settles O45: at a first boundary the buffer is the missed bytes and the byte that hits; without one every byte
misses. -/
theorem findChunkStopsAtFirstBoundary : Obligations.FindChunkStopsAtFirstBoundary := by
  unfold Obligations.FindChunkStopsAtFirstBoundary
  intro s buf hf hs
  cases hfirst : Engine.firstHit buf s.engine with
  | none =>
    obtain ⟨rs, hrs, hok, hbits⟩ := transactAll_scans_of_miss hf hs buf hfirst
    refine ⟨_, rs, hok, .inr ⟨(findChunk_eq_none_iff hf hs ..).2 ⟨hfirst, rfl⟩, ?_, hrs, hbits⟩⟩
    rintro rfl
    rfl
  | some i =>
    have hfound := (findChunk_eq_boundary_iff hf hs buf _ i).2 ⟨hfirst, rfl⟩
    obtain ⟨a, b, c, rfl, rfl, hmiss, hhit⟩ := Engine.firstHit_eq_some hfirst
    obtain ⟨rs, hrs, hok, hbits⟩ := transactAll_scans_of_miss hf hs a hmiss
    have scan := transact_scan (s := s.withEngine (s.engine.rollAll a)) hf hs b
    rw [State.withEngine_engine, Engine.scanned_of_hit hhit, hhit, Engine.rollAll_cb] at scan
    have hwords : ((a ++ b :: c).take (a.length + 1)).map (fun b => encode (.scan b)) =
        a.map (fun b => encode (.scan b)) ++ [encode (.scan b)] := by
      rw [List.take_length_add_append, List.map_append]
      rfl
    have all := transactAll_append_of_eq hrs (transactAll_singleton scan)
    rw [← hwords] at all
    refine ⟨_, _, List.forall_mem_append.2 ⟨hok, ?_⟩, .inl ⟨a.length, hfound, by simp, rfl, all, ?_⟩⟩
    · simp
    · simp [hbits]

/-- Settles O46: `Engine.firstHit_append`, at a block that has rolled the first buffer. -/
theorem findChunkContinues : Obligations.FindChunkContinues := by
  unfold Obligations.FindChunkContinues
  intro s t a c hf hs
  refine ⟨fun h => ?_, fun i h => ?_⟩
  · obtain ⟨ha, rfl⟩ := (findChunk_eq_none_iff hf hs ..).1 h
    have hf' : (s.withEngine (s.engine.rollAll a)).fault = false := hf
    have hs' : (s.withEngine (s.engine.rollAll a)).response = none := hs
    refine ⟨fun u => ?_, fun u i => ?_⟩
    · rw [findChunk_eq_none_iff hf' hs', findChunk_eq_none_iff hf hs, Engine.firstHit_append, ha]
      simp [Engine.rollAll_append]
    · rw [findChunk_eq_boundary_iff hf' hs', findChunk_eq_boundary_iff hf hs, Engine.firstHit_append, ha]
      simp
  · obtain ⟨ha, rfl⟩ := (findChunk_eq_boundary_iff hf hs ..).1 h
    rw [findChunk_eq_boundary_iff hf hs, Engine.firstHit_append, ha]
    exact ⟨rfl, rfl⟩

/-! ### A chunk rolled alone -/

theorem Engine.take_firstHit {buf : List Byte} {i : Nat} {e : Engine W} (h : firstHit buf e = some i) :
    (buf.take (i + 1)).length = i + 1 ∧ boundary (e.rollAll (buf.take (i + 1))).digest e.cb = true := by
  obtain ⟨a, b, c, rfl, rfl, -, hhit⟩ := firstHit_eq_some h
  rw [List.take_length_add_append, rollAll_append]
  rw [hit, rollAll_cb] at hhit
  exact ⟨by simp, hhit⟩

/-- R141: the bytes before the chunk are zeros, as at a fresh engine, or 64 bytes have pushed them out. -/
theorem logical_rollAll_fresh {e : Engine W} {bs : List Byte} (h : e.windowZero = true ∨ 64 ≤ bs.length)
    (c : ChunkBits) : ((Engine.fresh c : Engine W).rollAll bs).logical = (e.rollAll bs).logical := by
  obtain hz | hlen := h
  · rw [Engine.logical_rollAll, Engine.logical_rollAll, Engine.logical_fresh, Engine.logical_of_windowZero hz]
  · rw [Engine.logical_rollAll_of_long hlen, Engine.logical_rollAll_of_long hlen]

/-- Settles O47: the chunk's digest from a fresh engine is the digest the SCAN tested, for both engines are in closed
form over the same logical window. -/
theorem splitCorrectness : Obligations.SplitCorrectness := by
  unfold Obligations.SplitCorrectness
  intro s t buf i hf hs hclosed h hcond
  obtain ⟨hfirst, -⟩ := (findChunk_eq_boundary_iff hf hs ..).1 h
  obtain ⟨hlen, hbdry⟩ := Engine.take_firstHit hfirst
  have alike : Engine.Alike ((Engine.fresh s.engine.cb).rollAll (buf.take (i + 1)))
      (s.engine.rollAll (buf.take (i + 1))) :=
    { logical := logical_rollAll_fresh (hcond.imp_right (by omega)) _
      cb := by rw [Engine.rollAll_cb, Engine.rollAll_cb, Engine.fresh_cb]
      closedLeft := closedForm_rollAll _ (closedForm_fresh _)
      closedRight := closedForm_rollAll _ hclosed }
  rw [alike.digest_eq]
  exact hbdry

/-! ### The ends of the range of `cb` -/

/-- R143: with `cb` 0 the predicate asks for nothing. -/
theorem hit_of_cb_zero {e : Engine W} (h : e.cb = 0) (b : Byte) : e.hit b = true := by
  rw [Engine.hit_iff, h]
  exact fun i hi => absurd hi (Nat.not_lt_zero i)

/-- Settles O30: the first byte hits. -/
theorem zeroChunkBitsEveryByteIsBoundary : Obligations.ZeroChunkBitsEveryByteIsBoundary := by
  unfold Obligations.ZeroChunkBitsEveryByteIsBoundary
  intro s b buf hf hcb
  have hhit := hit_of_cb_zero hcb b
  refine ⟨?_, fun hs => ?_⟩
  · rw [exec_scan_of_hit hf hhit, hcb, respond_ok_boundary]
    rfl
  · refine (findChunk_eq_boundary_iff hf hs ..).2 ⟨Engine.firstHit_of_hit hhit buf, ?_⟩
    rw [hcb]
    rfl

section
variable {e : Engine 32} (h : ClosedForm e) (hcb : e.cb = 31)
include h hcb

/-- R144: bits 30:16 of a digest in closed form are not all 1. -/
theorem miss_of_cb_31 (b : Byte) : e.hit b = false := by
  rw [Bool.eq_false_iff, ne_eq, Engine.hit_iff, hcb]
  intro hones
  obtain ⟨-, -, -, -, hbits⟩ := digestClosedFormAndRanges (e.roll b) (closedForm_roll b h)
  refine hbits (BitVec.eq_of_getLsbD_eq fun i hi => ?_)
  have hbit : (e.roll b).digest.getLsbD (16 + i) = true := hones _ (by simp; omega)
  have hall : (0x7FFF : BitVec 15).getLsbD i = decide (i < 15) := BitVec.getLsbD_allOnes
  rw [BitVec.getLsbD_extractLsb', hbit, hall, Bool.and_true]

theorem firstHit_of_cb_31 (buf : List Byte) : Engine.firstHit buf e = none := by
  induction buf generalizing e with
  | nil => rfl
  | cons b bs ih => rw [Engine.firstHit_of_miss (miss_of_cb_31 h hcb b), ih (closedForm_roll b h) hcb]; rfl

end

/-- Settles O31: no byte hits, and the closed form stays. -/
theorem thirtyOneChunkBitsNeverBoundary : Obligations.ThirtyOneChunkBitsNeverBoundary := by
  unfold Obligations.ThirtyOneChunkBitsNeverBoundary
  intro s buf hf hs h hcb
  refine ⟨fun b => ?_, (findChunk_eq_none_iff hf hs ..).2 ⟨firstHit_of_cb_31 h hcb buf, rfl⟩⟩
  rw [exec_scan_of_miss hf (miss_of_cb_31 h hcb b), respond_ok]
  rfl

end Sys2Proof.Machine
end

section
/-! PROOF. What the boundary predicate reads and how far the strength count goes (spec 42_boundary R131, R147, R148). -/

namespace Sys2Proof.Machine

open Safety

variable {W : Nat}

/-! ### The digest's bits -/

/-- R110: the low half of the digest is that of `s2`. -/
theorem Engine.getLsbD_digest_low (e : Engine W) {i : Nat} (h : i < 16) :
    e.digest.getLsbD i = e.s2.getLsbD i := by
  rw [digest_eq_append, BitVec.getLsbD_append, if_pos h]
  simp [h]

/-- R110: the high half of the digest is the low half of `s1`. -/
theorem Engine.getLsbD_digest_high (e : Engine W) {i : Nat} (h : i < 16) :
    e.digest.getLsbD (16 + i) = e.s1.getLsbD i := by
  rw [digest_eq_append, BitVec.getLsbD_append, if_neg (by omega)]
  simp [h]

/-- Settles O26: the predicate reads the low `c` bits of the digest, which pass from `s2` to `s1` at bit 16. -/
theorem boundaryReadsAccumulatorBits : Obligations.BoundaryReadsAccumulatorBits := by
  unfold Obligations.BoundaryReadsAccumulatorBits
  intro e c
  rw [boundary_iff]
  refine ⟨fun hc => forall₂_congr fun i hi => ?_, fun hc => ⟨fun h => ⟨fun i hi => ?_, fun i hi => ?_⟩, ?_⟩⟩
  · rw [e.getLsbD_digest_low (by omega)]
  · rw [← e.getLsbD_digest_low hi, h i (by omega)]
  · rw [← e.getLsbD_digest_high (by omega), h (16 + i) (by omega)]
  · rintro ⟨hs2, hs1⟩ i hi
    obtain hlow | ⟨j, rfl⟩ := (Nat.lt_or_ge i 16).imp_right Nat.exists_eq_add_of_le
    · rw [e.getLsbD_digest_low hlow, hs2 i hlow]
    · rw [e.getLsbD_digest_high (by omega), hs1 j (by omega)]

/-! ### The length of a run of 1 bits -/

section
variable {d : DataWord} {k : Nat}

/-- A run of exactly `m` bits. -/
theorem onesFrom_eq_of_run {m n : Nat} (hones : ∀ i, k ≤ i → i < k + m → d.getLsbD i = true)
    (hzero : d.getLsbD (k + m) = false) (hn : m ≤ n) : onesFrom d k n = m := by
  induction m generalizing k n with
  | zero => exact onesFrom_of_clear hzero n
  | succ m ih =>
    obtain ⟨n, rfl⟩ := Nat.exists_eq_add_of_le' (Nat.one_le_of_lt hn)
    rw [onesFrom_of_set (hones k le_rfl (by omega)), ih (fun i hi hlt => hones i (by omega) (by omega)) _ (by omega)]
    rwa [Nat.add_right_comm]

/-- A run ends at the first 0 bit. -/
theorem onesFrom_le_of_clear {j : Nat} (hj : d.getLsbD j = false) (hk : k ≤ j) (n : Nat) :
    onesFrom d k n ≤ j - k := by
  induction n generalizing k with
  | zero => exact Nat.zero_le _
  | succ n ih =>
    cases hb : d.getLsbD k with
    | false => rw [onesFrom_of_clear hb]; exact Nat.zero_le _
    | true =>
      have hlt : k < j := lt_of_le_of_ne hk fun h => by rw [h, hj] at hb; cases hb
      have hrest := ih (k := k + 1) hlt
      rw [onesFrom_of_set hb]
      omega

end

/-- Settles O28: the run counted starts one bit above bit `c`, so of `k` bits it has `k - 1`. -/
theorem countFormulaAtBoundary : Obligations.CountFormulaAtBoundary := by
  unfold Obligations.CountFormulaAtBoundary
  intro d c k hk hones hzero
  rw [toNat_countBitsFn]
  refine ⟨fun hpos => ?_, fun _ hclear => ?_⟩
  · have hend : c.toNat + 1 + (k - 1) = c.toNat + k := by omega
    rw [onesFrom_eq_of_run (m := k - 1) (fun i _ hi => hones i (by omega)) (by rwa [hend]) (by omega)]
    omega
  · rw [onesFrom_of_clear hclear, Nat.add_zero]

/-! ### The loop's end and the count's range -/

/-- R148: the loop tests no bit above 31 as a 1, so fuel that reaches bit 31 is enough. -/
theorem countLoop_eq_of_reach (d : DataWord) {k n m : Nat} (bits : BitVec 6) (hn : 31 ≤ k + n) (hm : 31 ≤ k + m) :
    countLoop n (d >>> k) bits = countLoop m (d >>> k) bits := by
  have htest (k : Nat) : (d >>> k >>> 1).getLsbD 0 = d.getLsbD (k + 1) := by simp
  have stop {k : Nat} (hk : d.getLsbD (k + 1) = false) (n : Nat) (bits : BitVec 6) :
      countLoop n (d >>> k) bits = bits := by
    cases n with
    | zero => rfl
    | succ n => rw [countLoop, htest, hk, if_neg Bool.false_ne_true]
  induction n generalizing k m bits with
  | zero => rw [stop (BitVec.getLsbD_of_ge d _ (by omega)), stop (BitVec.getLsbD_of_ge d _ (by omega))]
  | succ n ih =>
    cases hk : d.getLsbD (k + 1) with
    | false => rw [stop hk, stop hk]
    | true =>
      cases m with
      | zero => rw [BitVec.getLsbD_of_ge d _ (by omega)] at hk; cases hk
      | succ m =>
        rw [countLoop, countLoop, htest, hk, if_pos rfl, if_pos rfl, ← BitVec.shiftRight_add]
        exact ih (bits + 1) (by omega) (by omega)

theorem countBitsFn_range (d : DataWord) (c : ChunkBits) :
    c.toNat ≤ (countBitsFn d c).toNat ∧ (countBitsFn d c).toNat ≤ 31 := by
  have hrun := onesFrom_le_of_clear (BitVec.getLsbD_of_ge d 32 le_rfl) (k := c.toNat + 1) (by omega) 32
  rw [toNat_countBitsFn]
  omega

/-- R148: a clear bit 31 ends the run one bit earlier, unless the count starts above it. -/
theorem countBitsFn_le_of_bit31_clear {d : DataWord} (h : d.getLsbD 31 = false) (c : ChunkBits) :
    (countBitsFn d c).toNat ≤ max 30 c.toNat := by
  obtain hc | hc : c.toNat ≤ 30 ∨ c.toNat = 31 := by omega
  · have hrun := onesFrom_le_of_clear h (k := c.toNat + 1) (by omega) 32
    rw [toNat_countBitsFn]
    omega
  · have hrange := countBitsFn_range d c
    omega

/-- Settles O29: fuel by `countLoop_eq_of_reach`, the range by the run's end, and bit 31 of a digest in closed form is
0. -/
theorem countTerminatesInRange : Obligations.CountTerminatesInRange := by
  unfold Obligations.CountTerminatesInRange
  refine ⟨fun d c => ⟨fun n hn => ?_, countBitsFn_range d c⟩, fun e h => ?_⟩
  · exact countLoop_eq_of_reach d _ (by omega) (by omega)
  · exact countBitsFn_le_of_bit31_clear (closedForm_digest_bit31 h) e.cb

end Sys2Proof.Machine
end

section
/-! PROOF. Several blocks (spec 60_exceptions R175, 20_memory R50). -/

namespace Sys2Proof.Machine

/-- A step of block `k` of the list, if it has one, replaces that block's state. -/
theorem stepAt_eq_some_iff (k : Nat) (sys sys' : System) :
    stepAt k sys = some sys' ↔ ∃ s t, sys[k]? = some s ∧ step s = .next t ∧ sys' = sys.set k t := by
  unfold stepAt
  cases hk : sys[k]? with
  | none => simp
  | some s => cases hs : step s <;> simp [hs, eq_comm (a := sys')]

/-- R175: a step of one block leaves every other as it was. -/
theorem stepAt_frame {j k : Nat} {sys sys' : System} (hjk : j ≠ k) (h : stepAt k sys = some sys') :
    sys'[j]? = sys[j]? ∧ sys'.length = sys.length := by
  obtain ⟨s, t, -, -, rfl⟩ := (stepAt_eq_some_iff ..).1 h
  exact ⟨List.getElem?_set_ne hjk.symm, List.length_set⟩

/-- R50: two blocks' steps, one order. -/
theorem bind_stepAt_eq_some_iff {j k : Nat} (hjk : j ≠ k) (sys u : System) :
    (stepAt j sys).bind (stepAt k) = some u ↔
      ∃ a a' b b', sys[j]? = some a ∧ step a = .next a' ∧ sys[k]? = some b ∧ step b = .next b' ∧
        u = (sys.set j a').set k b' := by
  rw [Option.bind_eq_some_iff]
  constructor
  · rintro ⟨v, hv, hu⟩
    obtain ⟨a, a', ha, hsa, rfl⟩ := (stepAt_eq_some_iff ..).1 hv
    obtain ⟨b, b', hb, hsb, rfl⟩ := (stepAt_eq_some_iff ..).1 hu
    rw [List.getElem?_set_ne hjk] at hb
    exact ⟨a, a', b, b', ha, hsa, hb, hsb, rfl⟩
  · rintro ⟨a, a', b, b', ha, hsa, hb, hsb, rfl⟩
    refine ⟨_, (stepAt_eq_some_iff ..).2 ⟨a, a', ha, hsa, rfl⟩, (stepAt_eq_some_iff ..).2 ⟨b, b', ?_, hsb, rfl⟩⟩
    rwa [List.getElem?_set_ne hjk]

/-- Settles O49: in either order the two steps succeed together, and replacing two different elements commutes. -/
theorem instancesShareNothing : Obligations.InstancesShareNothing := by
  unfold Obligations.InstancesShareNothing
  intro sys j k hjk
  refine ⟨fun sys' h => stepAt_frame hjk h, Option.ext fun u => ?_⟩
  rw [bind_stepAt_eq_some_iff hjk, bind_stepAt_eq_some_iff hjk.symm]
  constructor
  · rintro ⟨a, a', b, b', ha, hsa, hb, hsb, rfl⟩
    exact ⟨b, b', a, a', hb, hsb, ha, hsa, List.set_comm _ _ hjk⟩
  · rintro ⟨b, b', a, a', hb, hsb, ha, hsa, rfl⟩
    exact ⟨a, a', b, b', ha, hsa, hb, hsb, List.set_comm _ _ hjk.symm⟩

end Sys2Proof.Machine
end

section
/-! PROOF. The assembler (spec 30_encoding R70, R71). -/

namespace Sys2Proof.Machine

/-! ### The mnemonics -/

section
variable (ts : List Token)

theorem asmTokens_init : asmTokens "INIT".toList ts = asmNone .init ts := by simp [asmTokens]

theorem asmTokens_config :
    asmTokens "CONFIG".toList ts = asmOne configOperand (fun c => encode (.config c)) ts := by simp [asmTokens]

theorem asmTokens_reset : asmTokens "RESET".toList ts = asmNone .reset ts := by simp [asmTokens]

theorem asmTokens_roll :
    asmTokens "ROLL".toList ts = asmOne byteOperand (fun b => encode (.roll b)) ts := by simp [asmTokens]

theorem asmTokens_scan :
    asmTokens "SCAN".toList ts = asmOne byteOperand (fun b => encode (.scan b)) ts := by simp [asmTokens]

theorem asmTokens_digest : asmTokens "DIGEST".toList ts = asmNone .digest ts := by simp [asmTokens]

theorem asmTokens_countbits : asmTokens "COUNTBITS".toList ts = asmNone .countbits ts := by simp [asmTokens]

end

/-! ### The operands -/

theorem digitValue_hexDigit : ∀ n < 16, digitValue 16 (hexDigit n) = some n := by decide

/-- R70: the two hexadecimal digits of a byte are its value. -/
theorem numberValue_hexByte (b : Byte) : numberValue (hexByte b) = some b.toNat := by
  have hhigh := digitValue_hexDigit (b.toNat / 16) (by omega)
  have hlow := digitValue_hexDigit (b.toNat % 16) (by omega)
  have hsum : b.toNat / 16 * 16 + b.toNat % 16 = b.toNat := Nat.div_add_mod' b.toNat 16
  simp [numberValue, hexByte, digitsValue, hhigh, hlow, hsum]

theorem boundedNumber_hexByte (b : Byte) : boundedNumber 256 (hexByte b) = .ok b.toNat := by
  rw [boundedNumber, numberValue_hexByte]
  exact if_pos b.isLt

theorem byteOperand_hexByte (b : Byte) : byteOperand (.plain (hexByte b)) = .ok b := by
  rw [byteOperand, boundedNumber_hexByte, Except.map, BitVec.ofNat_toNat, BitVec.setWidth_eq]

/-- CONFIG takes the same numbers as ROLL and SCAN. -/
theorem configOperand_plain (cs : List Char) : configOperand (.plain cs) = byteOperand (.plain cs) := rfl

theorem byteOperand_outOfRange {cs : List Char} {n : Nat} (h : numberValue cs = some n) (hn : 256 ≤ n) :
    byteOperand (.plain cs) = .error .outOfRange := by
  rw [byteOperand, boundedNumber, h]
  simp [Except.map, Nat.not_lt.2 hn]

theorem asmOne_ok {operand : Token → Except AsmError Byte} {word : Byte → CmdWord} {t : Token} {b : Byte}
    (h : operand t = .ok b) : asmOne operand word [t] = .ok (.word (word b)) := by
  rw [asmOne, h]
  rfl

theorem asmOne_error {operand : Token → Except AsmError Byte} {word : Byte → CmdWord} {t : Token} {e : AsmError}
    (h : operand t = .error e) : asmOne operand word [t] = .error e := by
  rw [asmOne, h]
  rfl

/-! ### Cutting a line into tokens -/

/-- The lexer adds the character to the run it stands in: it is no quote, comma, `;` or blank (R70). -/
def isPlain (c : Char) : Bool := !(c.toNat == 59 || c.toNat == 39 || c.toNat == 44 || isBlank c)

theorem lexLine_cons_plain {c : Char} (h : isPlain c = true) (run rest : List Char) :
    lexLine run (c :: rest) = lexLine (c :: run) rest := by
  simp only [isPlain, Bool.not_eq_true', Bool.or_eq_false_iff, beq_eq_false_iff_ne] at h
  obtain ⟨⟨⟨hsemi, hquote⟩, hcomma⟩, hblank⟩ := h
  conv_lhs => unfold lexLine
  rw [if_neg hsemi, if_neg hquote, if_neg hcomma, hblank, if_neg Bool.false_ne_true]

theorem lexLine_append_plain {cs : List Char} (h : cs.all isPlain = true) (run rest : List Char) :
    lexLine run (cs ++ rest) = lexLine (cs.reverse ++ run) rest := by
  induction cs generalizing run with
  | nil => rfl
  | cons c cs ih =>
    obtain ⟨hc, hcs⟩ := Bool.and_eq_true_iff.1 h
    rw [List.cons_append, lexLine_cons_plain hc, ih hcs, List.reverse_cons, List.append_assoc]
    rfl

theorem lexLine_blank (run rest : List Char) :
    lexLine run (' ' :: rest) = (lexLine [] rest).map fun ts => flushPlain run ts := by
  conv_lhs => unfold lexLine
  rfl

theorem flushPlain_reverse {cs : List Char} (h : cs ≠ []) (ts : List Token) :
    flushPlain cs.reverse ts = .plain cs :: ts := by
  simp [flushPlain, h]

theorem lexLine_plain {cs : List Char} (h : cs.all isPlain = true) (hne : cs ≠ []) :
    lexLine [] cs = .ok [.plain cs] := by
  have hlex := lexLine_append_plain h [] []
  rw [List.append_nil, List.append_nil] at hlex
  rw [hlex, lexLine, flushPlain_reverse hne]

theorem lexLine_plain_blank_plain {m cs : List Char} (hm : m.all isPlain = true) (hm' : m ≠ [])
    (hcs : cs.all isPlain = true) (hcs' : cs ≠ []) :
    lexLine [] (m ++ ' ' :: cs) = .ok [.plain m, .plain cs] := by
  rw [lexLine_append_plain hm, List.append_nil, lexLine_blank, lexLine_plain hcs hcs', Except.map,
    flushPlain_reverse hm']

/-! ### Assembling a command's text -/

theorem assembleLine_mnemonic {m : List Char} (hm : m.all isPlain = true) (hm' : m ≠ []) :
    assembleLine m = (asmTokens m []).map some := by
  rw [assembleLine, lexLine_plain hm hm']

theorem isPlain_hexDigit : ∀ n < 16, isPlain (hexDigit n) = true := by decide

theorem all_isPlain_hexByte (b : Byte) : (hexByte b).all isPlain = true := by
  have hhigh := isPlain_hexDigit (b.toNat / 16) (by omega)
  have hlow := isPlain_hexDigit (b.toNat % 16) (by omega)
  have hmark : isPlain '0' = true ∧ isPlain 'x' = true := by decide
  simp [hexByte, hhigh, hlow, hmark]

theorem assembleLine_mnemonic_hexByte {m : List Char} (hm : m.all isPlain = true) (hm' : m ≠ []) (b : Byte) :
    assembleLine (m ++ ' ' :: hexByte b) = (asmTokens m [.plain (hexByte b)]).map some := by
  rw [assembleLine, lexLine_plain_blank_plain hm hm' (all_isPlain_hexByte b) (List.cons_ne_nil _ _)]

theorem assembleLine_asmNone {m : List Char} {i : Instr} (hm : m.all isPlain = true) (hm' : m ≠ [])
    (h : asmTokens m [] = asmNone i []) : assembleLine m = .ok (some (.word (encode i))) := by
  rw [assembleLine_mnemonic hm hm', h]
  rfl

/-- Settles O50: the lexer cuts the text into the mnemonic and the two digits, and the digits are read back. -/
theorem assembleInvertsText : Obligations.AssembleInvertsText := by
  unfold Obligations.AssembleInvertsText
  intro i
  cases i with
  | init => exact assembleLine_asmNone (m := "INIT".toList) rfl (by simp) (asmTokens_init [])
  | reset => exact assembleLine_asmNone (m := "RESET".toList) rfl (by simp) (asmTokens_reset [])
  | digest => exact assembleLine_asmNone (m := "DIGEST".toList) rfl (by simp) (asmTokens_digest [])
  | countbits => exact assembleLine_asmNone (m := "COUNTBITS".toList) rfl (by simp) (asmTokens_countbits [])
  | config c =>
    refine (assembleLine_mnemonic_hexByte (m := "CONFIG".toList) rfl (by simp) c).trans ?_
    rw [asmTokens_config, asmOne_ok ((configOperand_plain _).trans (byteOperand_hexByte c))]
    rfl
  | roll b =>
    refine (assembleLine_mnemonic_hexByte (m := "ROLL".toList) rfl (by simp) b).trans ?_
    rw [asmTokens_roll, asmOne_ok (byteOperand_hexByte b)]
    rfl
  | scan b =>
    refine (assembleLine_mnemonic_hexByte (m := "SCAN".toList) rfl (by simp) b).trans ?_
    rw [asmTokens_scan, asmOne_ok (byteOperand_hexByte b)]
    rfl

/-! ### What the assembler refuses -/

theorem legal_encode (i : Instr) : CmdWord.legal (encode i) = true :=
  (legal_iff _).2 ((decode_ok_iff _).1 ⟨i, decode_encode i⟩)

theorem word_of_asmNone {i : Instr} {ts : List Token} {w : CmdWord} (h : asmNone i ts = .ok (.word w)) :
    w = encode i := by
  unfold asmNone at h
  split at h <;> cases h
  rfl

theorem word_of_asmOne {operand : Token → Except AsmError Byte} {word : Byte → CmdWord} {ts : List Token}
    {w : CmdWord} (h : asmOne operand word ts = .ok (.word w)) : ∃ b, w = word b := by
  unfold asmOne at h
  split at h
  · next t =>
    cases ht : operand t with
    | error e => rw [ht] at h; cases h
    | ok b => rw [ht] at h; cases h; exact ⟨b, rfl⟩
  · cases h

/-- Every line but `.word` that gives a word gives a command's word. -/
theorem legal_of_asmTokens {m : List Char} {ts : List Token} {w : CmdWord} (hm : m ≠ ".word".toList)
    (h : asmTokens m ts = .ok (.word w)) : CmdWord.legal w = true := by
  have hnone {i : Instr} (h : asmNone i ts = .ok (.word w)) : CmdWord.legal w = true :=
    word_of_asmNone h ▸ legal_encode i
  have hone {operand : Token → Except AsmError Byte} {f : Byte → Instr}
      (h : asmOne operand (fun b => encode (f b)) ts = .ok (.word w)) : CmdWord.legal w = true := by
    obtain ⟨b, rfl⟩ := word_of_asmOne h
    exact legal_encode (f b)
  have hbytes {f : List Byte → HostOp} (h : (byteList ts).map f = .ok (.word w)) : ∃ bs, f bs = .word w := by
    cases hb : byteList ts with
    | error e => rw [hb] at h; cases h
    | ok bs => rw [hb] at h; exact ⟨bs, Except.ok.inj h⟩
  unfold asmTokens at h
  split_ifs at h
  · exact hnone h
  · exact hone h
  · exact hnone h
  · exact hone h
  · exact hone h
  · exact hnone h
  · exact hnone h
  · obtain ⟨bs, hbs⟩ := hbytes h
    cases hbs
  · obtain ⟨bs, hbs⟩ := hbytes h
    cases hbs

/-- Settles O51: the operand's range by `byteOperand_outOfRange`, the operand too many by `asmNone`, and the words by
`legal_of_asmTokens`. -/
theorem assemblerRefusals : Obligations.AssemblerRefusals := by
  unfold Obligations.AssemblerRefusals
  refine ⟨fun cs n h hn m hm => ?_, fun t ts m hm => ?_, fun m ts w h => ?_⟩
  · have hbyte := byteOperand_outOfRange h hn
    simp only [List.mem_cons, List.not_mem_nil, or_false] at hm
    obtain rfl | rfl | rfl := hm
    · exact (asmTokens_config _).trans (asmOne_error ((configOperand_plain cs).trans hbyte))
    · exact (asmTokens_roll _).trans (asmOne_error hbyte)
    · exact (asmTokens_scan _).trans (asmOne_error hbyte)
  · simp only [List.mem_cons, List.not_mem_nil, or_false] at hm
    obtain rfl | rfl | rfl | rfl := hm
    · exact asmTokens_init _
    · exact asmTokens_reset _
    · exact asmTokens_digest _
    · exact asmTokens_countbits _
  · by_cases hm : m = ".word".toList
    · exact .inl hm
    · exact .inr (legal_of_asmTokens hm h)

end Sys2Proof.Machine
end
